-- ==== Sys2Proof/Word.lean ====
section
/-! DEFINITION. The word types of the ZM2416 and the fixed-length table that holds its numbered records. -/

namespace Sys2Proof

/-- One byte of a frame. -/
abbrev Byte := BitVec 8

/-- A coordinate: 24 bits of two's complement, read with `BitVec.toInt` (R2). -/
abbrev Coord := BitVec 24

/-- An object id; 0 names no object (R47). -/
abbrev ObjId := BitVec 32

/-- A zone id 0..63 (R18). -/
abbrev ZoneId := Fin 64

/-- A slot number 0..127 of the Object Table (R47). -/
abbrev SlotNo := Fin 128

/-- A vertex block number 0..511 (R23). -/
abbrev BlockNo := Fin 512

/-- A set of zone ids; zone `z` is in it when bit `z` is 1 (R168). -/
abbrev ZoneSet := BitVec 64

/-- A set of classes or of priorities; `c` is in it when bit `c` is 1 (R168). -/
abbrev ClassSet := BitVec 8

/-- A table of exactly `n` records numbered from 0. The length is part of the data. -/
structure Table (α : Type) (n : Nat) where
  cells : List α
  size : cells.length = n
deriving DecidableEq, Repr

variable {α β : Type} {n : Nat}

/-- Record `i` of the table. -/
def Table.get (t : Table α n) (i : Fin n) : α :=
  t.cells[i.val]'(t.size.symm ▸ i.isLt)

/-- The table with record `i` replaced. -/
def Table.set (t : Table α n) (i : Fin n) (v : α) : Table α n :=
  ⟨t.cells.set i.val v, by rw [List.length_set]; exact t.size⟩

/-- The table whose record `i` is `f i`. -/
def Table.ofFn (f : Fin n → α) : Table α n :=
  ⟨List.ofFn f, List.length_ofFn⟩

/-- The table with `v` in every place. -/
def Table.fill (n : Nat) (v : α) : Table α n :=
  ⟨List.replicate n v, List.length_replicate⟩

/-- The table with `f` applied to every record. -/
def Table.map (f : α → β) (t : Table α n) : Table β n :=
  ⟨t.cells.map f, by rw [List.length_map]; exact t.size⟩

/-- The table with `f` applied to record `i` alone. -/
def Table.modify (t : Table α n) (i : Fin n) (f : α → α) : Table α n :=
  t.set i (f (t.get i))

@[simp] theorem Table.get_set_self (t : Table α n) (i : Fin n) (v : α) :
    (t.set i v).get i = v := by
  simp [Table.get, Table.set]

theorem Table.get_set (t : Table α n) (i j : Fin n) (v : α) :
    (t.set i v).get j = if i = j then v else t.get j := by
  simp [Table.get, Table.set, List.getElem_set, Fin.ext_iff]

@[simp] theorem Table.get_set_ne (t : Table α n) {i j : Fin n} (v : α) (h : i ≠ j) :
    (t.set i v).get j = t.get j := by
  simp [Table.get_set, h]

@[simp] theorem Table.get_ofFn (f : Fin n → α) (i : Fin n) : (Table.ofFn f).get i = f i := by
  simp [Table.get, Table.ofFn]

@[simp] theorem Table.get_fill (v : α) (i : Fin n) : (Table.fill n v).get i = v := by
  simp [Table.get, Table.fill]

@[simp] theorem Table.get_map (f : α → β) (t : Table α n) (i : Fin n) :
    (t.map f).get i = f (t.get i) := by
  simp [Table.get, Table.map]

@[simp] theorem Table.get_modify_self (t : Table α n) (i : Fin n) (f : α → α) :
    (t.modify i f).get i = f (t.get i) := by
  simp [Table.modify]

@[simp] theorem Table.get_modify_ne (t : Table α n) {i j : Fin n} (f : α → α) (h : i ≠ j) :
    (t.modify i f).get j = t.get j := by
  simp [Table.modify, h]

/-- Two tables with equal records are equal. -/
theorem Table.ext_get {t u : Table α n} (h : ∀ i, t.get i = u.get i) : t = u := by
  obtain ⟨ts, hts⟩ := t
  obtain ⟨us, hus⟩ := u
  have : ts = us := by
    apply List.ext_getElem (by omega)
    intro i h1 h2
    exact h ⟨i, by omega⟩
  subst this
  rfl

/-- Setting a record to what it already holds changes nothing. -/
@[simp] theorem Table.set_get (t : Table α n) (i : Fin n) : t.set i (t.get i) = t := by
  apply Table.ext_get
  intro j
  rw [Table.get_set]
  split <;> simp_all

end Sys2Proof
end

