-- ==== Sys2Proof/Syntax.lean ====
section
/-! DEFINITION. The commands of the ZM2416: one constructor for each row of spec/opcode_table.json. -/

namespace Sys2Proof

/-- A fix record (section 9.3): 15 bytes on the wire, of which the last holds the reserved bit, the class and the quality. -/
structure Fix where
  id : ObjId
  time : BitVec 32
  x : Coord
  y : Coord
  reserved : Bool
  cls : BitVec 3
  quality : BitVec 4
deriving DecidableEq, Repr

/-- The commands. A host request carries its TAG and its payload bytes as they stand on the wire, so that every length and
every value of a field is a form of the request (R139, R169). -/
inductive Instr where
  /-- RESETn rises, or power-up, with the levels of the HRATE and FRATE straps (R181). -/
  | pinReset (hrate frate : Bool)
  | ping (tag : Byte) (payload : List Byte)
  | status (tag : Byte) (payload : List Byte)
  | restart (tag : Byte) (payload : List Byte)
  | setParam (tag : Byte) (payload : List Byte)
  | getParam (tag : Byte) (payload : List Byte)
  | defineZone (tag : Byte) (payload : List Byte)
  | amendZone (tag : Byte) (payload : List Byte)
  | addVertices (tag : Byte) (payload : List Byte)
  | closeZone (tag : Byte) (payload : List Byte)
  | deleteZone (tag : Byte) (payload : List Byte)
  | discardDraft (tag : Byte) (payload : List Byte)
  | commit (tag : Byte) (payload : List Byte)
  | readZone (tag : Byte) (payload : List Byte)
  | readVertices (tag : Byte) (payload : List Byte)
  | declareObject (tag : Byte) (payload : List Byte)
  | retireObject (tag : Byte) (payload : List Byte)
  | readObject (tag : Byte) (payload : List Byte)
  | listObjects (tag : Byte) (payload : List Byte)
  | postFix (tag : Byte) (payload : List Byte)
  | queryPoint (tag : Byte) (payload : List Byte)
  | takeEvent (tag : Byte) (payload : List Byte)
  | releaseEvent (tag : Byte) (payload : List Byte)
  | armAttn (tag : Byte) (payload : List Byte)
  /-- A well-formed host frame whose TYPE byte names no request (R139). -/
  | unknownType (type tag : Byte) (payload : List Byte)
  /-- The bytes after the start byte of a host frame: LEN, the body and the two CRC bytes as received (R138). -/
  | hostFrameCrcFail (bytes : List Byte)
  | hostGapTimeout
  | hostFramingFault
  | replySent
  /-- A feed frame of TYPE 21H with its TAG and its fix records (R162). -/
  | fixBatch (tag : Byte) (fixes : List Fix)
  /-- A feed frame whose CRC holds and which fails a check of R160. -/
  | feedFrameDiscard (type tag : Byte) (payload : List Byte)
  | feedFrameCrcFail (bytes : List Byte)
  | feedGapTimeout
  | feedFramingFault
  | arbiterGrant
  | fixCompletion
  | queryCompletion
  | quietExpiry (slot : SlotNo)
  | retireExpiry (slot : SlotNo)
  | redeliveryExpiry (seq : BitVec 16)
  | resetnLow
  | hostFrameStart
  | hostBadLen (len : Byte)
  | feedFrameStart
  | feedBadLen (len : Byte)
deriving DecidableEq, Repr

end Sys2Proof
end

