-- ==== Sys2Proof/Config.lean ====
section
/-! DEFINITION. What the part fixes once, and the free values. -/

namespace Sys2Proof.Config

/-- FREE VALUE. How many zones an evaluation's walk passes in one idle step of the block; the spec gives the walk no
speed (R80). The argument is the counter `State.paceIndex`, so every idle step has a pace of its own. Log entry 3. -/
opaque walkPace : Nat → Nat

end Sys2Proof.Config
end

