-- ==== Sys2Proof/Machine/Wire.lean ====
section
/-! DEFINITION. Byte order and the layouts of single fields: how the part reads and writes them on the wire (R168, chapter 9). -/

namespace Sys2Proof.Machine

/-- `n` bytes of the unsigned number `v`, high byte first (R168). -/
def beBytes : Nat → Nat → List Byte
  | 0, _ => []
  | n + 1, v => BitVec.ofNat 8 (v / 256 ^ n) :: beBytes n v

/-- The unsigned number that bytes stand for, high byte first (R168). -/
def beNat : List Byte → Nat
  | [] => 0
  | b :: bs => b.toNat * 256 ^ bs.length + beNat bs

/-- The `n`-byte field at offset `off` of a layout. -/
def field (p : List Byte) (off n : Nat) : Nat :=
  beNat ((p.drop off).take n)

/-- The byte at offset `off` of a layout. -/
def byteAt (p : List Byte) (off : Nat) : Byte :=
  p.getD off 0

/-- A coordinate field (R2, R168). -/
def coordAt (p : List Byte) (off : Nat) : Coord :=
  BitVec.ofNat 24 (field p off 3)

/-- A coordinate's 3 bytes (R168). -/
def coordBytes (c : Coord) : List Byte :=
  beBytes 3 c.toNat

/-- A box field of READ_ZONE: 4 bytes of two's complement (R13, R168). -/
def int32Bytes (v : Int) : List Byte :=
  beBytes 4 (BitVec.ofInt 32 v).toNat

/-- A zone set's 8 bytes, zone 63 the top bit of the first (R168). -/
def zoneSetBytes (z : ZoneSet) : List Byte :=
  beBytes 8 z.toNat

/-- A zone id byte; 64..255 names no zone (R22). -/
def zoneIdOf (b : Byte) : Option ZoneId :=
  if h : b.toNat < 64 then some ⟨b.toNat, h⟩ else none

/-- A byte as a class or an event priority; 8..255 is neither (R54, R144). -/
def classOf (b : Byte) : Option (BitVec 3) :=
  if b.toNat < 8 then some (b.extractLsb' 0 3) else none

/-- A flag in a flag byte: bit 0 alone names one (R170). -/
def flagBit (b : Byte) : Bool :=
  b.getLsbD 0

/-- The class/quality byte of a fix record: bit 7 reserved, bits 6..4 class, bits 3..0 quality (section 9.3). -/
def classQualityByte (f : Fix) : Byte :=
  (BitVec.ofBool f.reserved ++ f.cls ++ f.quality : BitVec 8)

/-- The 15 bytes of a fix record (section 9.3). -/
def fixBytes (f : Fix) : List Byte :=
  beBytes 4 f.id.toNat ++ beBytes 4 f.time.toNat ++ coordBytes f.x ++ coordBytes f.y ++ [classQualityByte f]

/-- The fix record that 15 bytes hold (section 9.3). -/
def fixOf (p : List Byte) : Fix :=
  let cq := byteAt p 14
  { id := BitVec.ofNat 32 (field p 0 4)
    time := BitVec.ofNat 32 (field p 4 4)
    x := coordAt p 8
    y := coordAt p 11
    reserved := cq.getLsbD 7
    cls := cq.extractLsb' 4 3
    quality := cq.extractLsb' 0 4 }

/-- The first `n` fix records of a run of 15-byte records. -/
def fixesOf : Nat → List Byte → List Fix
  | 0, _ => []
  | n + 1, p => fixOf p :: fixesOf n (p.drop 15)

/-- The payload of a FIX_BATCH: the count byte and the records (section 9.3). -/
def fixBatchPayload (fixes : List Fix) : List Byte :=
  BitVec.ofNat 8 fixes.length :: fixes.flatMap fixBytes

/-- Saturating increment of a counter (R68, R138, R166). -/
def satInc {w : Nat} (c : BitVec w) : BitVec w :=
  if c = BitVec.allOnes w then c else c + 1

/-- Saturating sum of two counts of reports (R125). -/
def satAdd {w : Nat} (a b : BitVec w) : BitVec w :=
  if a.toNat + b.toNat < 2 ^ w then a + b else BitVec.allOnes w

/-- Fix time `t2` is newer than `t1`: (t2 - t1) mod 2^32 lies in 1..2147483647 (00_scope, Fix time; R76). -/
def newer (t2 t1 : BitVec 32) : Bool :=
  1 ≤ (t2 - t1).toNat && (t2 - t1).toNat ≤ 2147483647

end Sys2Proof.Machine
end

