-- ==== Sys2Proof/Machine/Frame.lean ====
section
/-! DEFINITION. The frame of both links, its CRC, and the receive framer with the examination of stored bytes
(R134 to R138, R157 to R159). -/

namespace Sys2Proof.Machine

/-- One bit of the CRC: the register's top bit against the data bit, shift left, combine with 1021H when they differ (R135). -/
def crcBit (reg : BitVec 16) (data : Bool) : BitVec 16 :=
  if reg.getLsbD 15 = data then reg <<< 1 else (reg <<< 1) ^^^ 0x1021#16

/-- One byte of the CRC, most significant bit first (R135). -/
def crcByte (reg : BitVec 16) (b : Byte) : BitVec 16 :=
  [7, 6, 5, 4, 3, 2, 1, 0].foldl (fun r i => crcBit r (b.getLsbD i)) reg

/-- The CRC of the covered bytes, from 0FFFFH (R135). -/
def crc16 (covered : List Byte) : BitVec 16 :=
  covered.foldl crcByte 0xFFFF#16

/-- The start byte of every frame (R134). -/
def startByte : Byte := 0xA5#8

/-- LEN, TYPE, TAG and payload: the bytes the CRC covers (R135). -/
def covered (type tag : Byte) (payload : List Byte) : List Byte :=
  BitVec.ofNat 8 (payload.length + 2) :: type :: tag :: payload

/-- Every byte of a frame after its start byte (R134). -/
def frameTail (type tag : Byte) (payload : List Byte) : List Byte :=
  covered type tag payload ++ beBytes 2 (crc16 (covered type tag payload)).toNat

/-- A whole frame (R134). -/
def frameBytes (type tag : Byte) (payload : List Byte) : List Byte :=
  startByte :: frameTail type tag payload

/-- The states of a receiver (section 7.3). -/
inductive FramerPhase where
  | hunt | length | body | check
deriving DecidableEq, Repr

/-- A receive framer. In HUNT it holds nothing and its gap timer is stopped. Otherwise it holds the bytes stored since the
start byte, and its 10 ms gap timer has run `gap` milliseconds since the last of them (R136, R137). -/
inductive Framer where
  | hunt
  | frame (stored : List Byte) (gap : Nat)
deriving DecidableEq, Repr

/-- The receiver state of section 7.3, from the stored bytes. -/
def Framer.phase : Framer → FramerPhase
  | .hunt => .hunt
  | .frame [] _ => .length
  | .frame (len :: body) _ => if body.length < len.toNat then .body else .check

/-- The bytes stored after the start byte. -/
def Framer.stored : Framer → List Byte
  | .hunt => []
  | .frame stored _ => stored

/-- The length of the gap timers in milliseconds (R137, R158). -/
def gapTime : Nat := 10

/-- A LEN that opens a body (R134). -/
def goodLen (len : Byte) : Bool :=
  2 ≤ len.toNat && len.toNat ≤ 248

/-- What the check at the second CRC byte finds (R138, R159). -/
inductive LinkItem where
  | frame (type tag : Byte) (payload : List Byte)
  | crcFail
deriving DecidableEq, Repr

/-- The CRC of the stored LEN and body agrees with the two CRC bytes that follow them. -/
def crcHolds (stored : List Byte) : Bool :=
  let n := (byteAt stored 0).toNat + 1
  beNat ((stored.drop n).take 2) == (crc16 (stored.take n)).toNat

/-- The frame that stored bytes with a good CRC make. -/
def itemOf (stored : List Byte) : LinkItem :=
  .frame (byteAt stored 1) (byteAt stored 2) ((stored.take ((byteAt stored 0).toNat + 1)).drop 3)

/-- One byte in a framer: the framer after it, what was found, and the stored bytes to be examined again (R136, R138). -/
def Framer.byte (f : Framer) (b : Byte) : Framer × List LinkItem × List Byte :=
  match f with
  | .hunt => (if b = startByte then .frame [] 0 else .hunt, [], [])
  | .frame [] _ => (if goodLen b then .frame [b] 0 else .hunt, [], [])
  | .frame (len :: body) _ =>
    let stored := len :: body ++ [b]
    if stored.length < len.toNat + 3 then (.frame stored 0, [], [])
    else if crcHolds stored then (.hunt, [itemOf stored], [])
    else (.hunt, [.crcFail], stored)

/-- Bytes one after another; bytes to be examined again go before those still to come (R138, R159). The first argument bounds
the number of examinations. -/
def Framer.examine : Nat → Framer → List Byte → Framer × List LinkItem
  | _, f, [] => (f, [])
  | 0, f, _ :: _ => (f, [])
  | n + 1, f, b :: bs =>
    let r := f.byte b
    let rest := Framer.examine n r.1 (r.2.2 ++ bs)
    (rest.1, r.2.1 ++ rest.2)

/-- A bound that every examination stays within: each start byte found is examined once, and each byte after it at most once
for each start byte before it. -/
def Framer.bound (f : Framer) (bs : List Byte) : Nat :=
  252 * (f.stored.length + bs.length + 1)

/-- Bytes arriving at a framer with no pause of 10 ms among them. -/
def Framer.receive (f : Framer) (bs : List Byte) : Framer × List LinkItem :=
  Framer.examine (f.bound bs) f bs

/-- The gap timer's millisecond (R1, R137). -/
def Framer.tick : Framer → Framer
  | .hunt => .hunt
  | .frame stored gap => .frame stored (gap + 1)

/-- The gap timer has run its 10 ms (R1, R137). -/
def Framer.gapDue : Framer → Bool
  | .hunt => false
  | .frame _ gap => gapTime ≤ gap

/-- The gap timer has reached its latest moment, 11 ms (R1). -/
def Framer.gapOverdue : Framer → Bool
  | .hunt => false
  | .frame _ gap => gapTime < gap

/-- The frame in reception may be the frame of these bytes: none is in reception, or what is stored begins them. -/
def Framer.expects (f : Framer) (tail : List Byte) : Bool :=
  match f with
  | .hunt => true
  | .frame stored _ => stored.isPrefixOf tail && stored.length < tail.length

/-- The bytes of `tail` that the line still has to carry when `f` holds a beginning of them; with another frame in reception, or none,
the whole frame with its start byte. -/
def Framer.remaining (f : Framer) (tail : List Byte) : List Byte :=
  match f with
  | .hunt => startByte :: tail
  | .frame stored _ => if f.expects tail then tail.drop stored.length else startByte :: tail

end Sys2Proof.Machine
end

