-- ==== Sys2Proof/Machine/Blocks.lean ====
section
/-! DEFINITION. The records of each block of the ZM2416, with their values after a pin reset. -/

namespace Sys2Proof.Machine

/-! ### Timers -/

/-- A timer that is stopped, or runs with the length it started with and the milliseconds it has run (R1, R55, R58). -/
inductive Timer where
  | stopped
  | running (length elapsed : Nat)
deriving DecidableEq, Repr

/-- A start with the length in force; 0 leaves the timer stopped (R54, R55, R56). -/
def Timer.start (length : Nat) : Timer :=
  if length = 0 then .stopped else .running length 0

/-- The timer runs and has reached its length: its expiry may be taken (R1). -/
def Timer.due : Timer → Bool
  | .stopped => false
  | .running length elapsed => length ≤ elapsed

/-- The timer runs and stands at its latest moment, one millisecond past its length (R1). -/
def Timer.overdue : Timer → Bool
  | .stopped => false
  | .running length elapsed => length < elapsed

/-- A millisecond of part time. -/
def Timer.tick : Timer → Timer
  | .stopped => .stopped
  | .running length elapsed => .running length (elapsed + 1)

/-! ### Zone Store -/

/-- A grid point (R2). -/
structure Point where
  x : Coord
  y : Coord
deriving DecidableEq, Repr

/-- A half-open box of exact integers; a bounding box reaches 8388608 (R5, R13). -/
structure Box where
  xmin : Int
  ymin : Int
  xmax : Int
  ymax : Int
deriving DecidableEq, Repr

/-- The fill rule of a polygon, which with BOX makes the three zone kinds (section 1.2). -/
inductive FillRule where
  | evenOdd | nonzero
deriving DecidableEq, Repr

/-- The quiet policy of a zone (R56). -/
inductive QuietPolicy where
  | hold | drop
deriving DecidableEq, Repr

/-- The attributes of a zone (R18). -/
structure Attrs where
  priority : BitVec 3
  invert : Bool
  quiet : QuietPolicy
  filter : ClassSet
  enterCount : BitVec 4
  exitCount : BitVec 4
deriving DecidableEq, Repr

/-- The geometry of a complete zone: a box, or a vertex count with its chain of vertex blocks and its bounding box (R18, R23). -/
inductive Geometry where
  | box (b : Box)
  | polygon (rule : FillRule) (count : Nat) (chain : List BlockNo) (bounds : Box)
deriving DecidableEq, Repr

/-- An active record (R18). -/
inductive ActiveRec where
  | absent (stamp : BitVec 16) (lastPriority : BitVec 3)
  | live (geometry : Geometry) (attrs : Attrs) (stamp : BitVec 16)
deriving DecidableEq, Repr

/-- A draft entry (R21). -/
inductive DraftEntry where
  | inherit
  | opened (rule : FillRule) (attrs : Attrs) (count : Nat) (chain : List BlockNo)
  | closed (geometry : Geometry) (attrs : Attrs)
  | amended (attrs : Attrs)
  | deleted
deriving DecidableEq, Repr

/-- A vertex block: 8 places (R23). -/
abbrev Block := Table Point 8

/-- The Zone Store (chapter 2). -/
structure ZoneStore where
  active : Table ActiveRec 64
  draft : Table DraftEntry 64
  generation : BitVec 16
  pool : Table Block 512
  freeList : List BlockNo
  retiring : List BlockNo
deriving DecidableEq, Repr

/-! ### Object Table -/

/-- The lifecycle state of a slot (R47). -/
inductive SlotPhase where
  | free | tracked | quiet | retiring
deriving DecidableEq, Repr

/-- The last fix of an object (R47). -/
structure LastFix where
  time : BitVec 32
  x : Coord
  y : Coord
  quality : BitVec 4
deriving DecidableEq, Repr

/-- Why an object is leaving the table (R47). -/
inductive RetireCause where
  | none | retire | quiet
deriving DecidableEq, Repr

/-- A slot of the Object Table (R47). `toldQuiet` is the told presence: QUIET when set, TRACKED when clear. -/
structure Slot where
  phase : SlotPhase
  id : ObjId
  cls : BitVec 3
  lastFix : Option LastFix
  inside : ZoneSet
  run : Table Nat 64
  toldSet : ZoneSet
  toldQuiet : Bool
  stale : BitVec 8
  dirty : Bool
  cause : RetireCause
  quietTimer : Timer
  retireTimer : Timer
deriving DecidableEq, Repr

/-- A FREE slot: nothing held, both timers stopped (R48, R53). Its fields carry no meaning (R47); log entry 9. -/
def Slot.empty : Slot where
  phase := .free
  id := 0
  cls := 0
  lastFix := none
  inside := 0
  run := Table.fill 64 0
  toldSet := 0
  toldQuiet := false
  stale := 0
  dirty := false
  cause := .none
  quietTimer := .stopped
  retireTimer := .stopped

/-! ### Evaluator -/

/-- The arbiter's sources, in the cyclic order of R73. -/
inductive Source where
  | hostFix | query | feed
deriving DecidableEq, Repr

/-- A point query as its slot holds it (R145). -/
structure Query where
  x : Coord
  y : Coord
  cls : BitVec 3
deriving DecidableEq, Repr

/-- What an evaluation is of (R79, R87): a fix against a slot, or a query with the generation at its start. -/
inductive Job where
  | hostFix (slot : SlotNo) (fix : Fix)
  | feedFix (slot : SlotNo) (fix : Fix)
  | query (q : Query) (generation : BitVec 16)
deriving DecidableEq, Repr

/-- A place of the raw-result list (R79, R80). -/
inductive RawCell where
  | unset | void | result (inside : Bool)
deriving DecidableEq, Repr

/-- The evaluation context (R79, R87). `walk` is the next zone id to be tested; 64 when the walk has passed zone 63. -/
structure Context where
  job : Job
  void : ZoneSet
  raw : Table RawCell 64
  walk : Nat
deriving DecidableEq, Repr

/-- The Evaluator: the grant pointer, and the context while busy (R75). -/
structure Evaluator where
  pointer : Source
  context : Option Context
deriving DecidableEq, Repr

/-! ### Event Queue -/

/-- Event causes (R112). -/
inductive Cause where
  | fix | catchup | zoneRemoved | zoneChanged | quiet | retire
deriving DecidableEq, Repr

/-- The fix part of an event (R93, R112). -/
structure FixPart where
  time : BitVec 32
  x : Coord
  y : Coord
deriving DecidableEq, Repr

/-- An event's kind with the optional parts it carries (R112). -/
inductive EventKind where
  | enter (id : ObjId) (zone : ZoneId) (cause : Cause) (generation : BitVec 16) (fix : Option FixPart)
  | exit (id : ObjId) (zone : ZoneId) (cause : Cause) (generation : BitVec 16) (fix : Option FixPart)
  | quiet (id : ObjId) (cause : Cause) (fix : Option FixPart)
  | resumed (id : ObjId) (cause : Cause) (fix : Option FixPart)
  | retired (id : ObjId) (cause : Cause)
  | admitRefused (firstId : ObjId) (count : BitVec 16)
  | feedOverrun (count : BitVec 16)
deriving DecidableEq, Repr

/-- A queued event (R111). `arrival` is its place in the order of first joining. -/
structure Event where
  seq : BitVec 16
  kind : EventKind
  priority : BitVec 3
  arrival : Nat
  redelivered : Bool
deriving DecidableEq, Repr

/-- A held event with its running redelivery timer (R117, R120). -/
structure Held where
  event : Event
  timer : Timer
deriving DecidableEq, Repr

/-- The Event Queue and Attention unit (chapter 6). `waiting` is the pending list. -/
structure EventQueue where
  waiting : List Event
  held : List Held
  nextSeq : BitVec 16
  nextArrival : Nat
  admitWaiting : BitVec 16
  admitFirstId : Option ObjId
  overrunWaiting : BitVec 16
  armed : Bool
  mask : ClassSet
deriving DecidableEq, Repr

/-! ### Host Link Controller -/

/-- Result codes (section 9.7). -/
inductive Result where
  | ok | okLate | nothing | empty
  | unknownType | badLength | badValue | duplicateTag | slotBusy | aborted
  | noZone | zoneState | noSpace | badShape | draftOpen
  | noObject | objectExists | tableFull | staleFix | lowQuality | objectState
  | heldFull | unknownSeq
deriving DecidableEq, Repr

/-- A reply in the reply queue (R149). `type` is the reply's TYPE. -/
structure Reply where
  type : Byte
  tag : Byte
  result : Result
  flags : Byte
  body : List Byte
deriving DecidableEq, Repr

/-- A deferred slot holding requests of type `α` (section 7.6, R145, R146). -/
inductive Deferred (α : Type) where
  | empty
  | waiting (tag : Byte) (request : α)
  | granted (tag : Byte) (request : α)
  | replyHeld (tag : Byte) (result : Result) (body : List Byte)
deriving DecidableEq, Repr

/-- The two deferred slots. -/
inductive DeferredSlot where
  | fix | query
deriving DecidableEq, Repr

/-- A link's rate, by its strap (R133, R156). -/
inductive LineRate where
  | baud115200 | baud460800
deriving DecidableEq, Repr

/-- The rate a strap level gives (R133, R156). -/
def LineRate.ofStrap (level : Bool) : LineRate :=
  if level then .baud460800 else .baud115200

/-- The Host Link Controller (chapter 7). -/
structure HostLink where
  framer : Framer
  fixSlot : Deferred Fix
  querySlot : Deferred Query
  heldOrder : List DeferredSlot
  replies : List Reply
  fresh : Bool
  dropped : Bool
  hhold : Bool
  discarded : BitVec 16
  rate : LineRate
deriving DecidableEq, Repr

/-! ### Feed Link Receiver -/

/-- The Feed Link Receiver (chapter 8). -/
structure FeedLink where
  framer : Framer
  queue : List Fix
  fhold : Bool
  framesDiscarded : BitVec 16
  fixesDiscarded : BitVec 16
  rate : LineRate
deriving DecidableEq, Repr

/-! ### Parameter store -/

/-- The seven parameters (R173). -/
structure Params where
  autoAdmit : Bool
  minQuality : BitVec 4
  quietTime : Nat
  retireTime : Nat
  redeliverTime : Nat
  objEventPrio : BitVec 3
  sysEventPrio : BitVec 3
deriving DecidableEq, Repr

/-! ### Reset values -/

/-- R44. The contents of the vertex blocks are log entry 8. -/
def ZoneStore.reset : ZoneStore where
  active := Table.fill 64 (.absent 0 0)
  draft := Table.fill 64 .inherit
  generation := 0
  pool := Table.fill 512 (Table.fill 8 ⟨0, 0⟩)
  freeList := List.finRange 512
  retiring := []

/-- R91. -/
def Evaluator.reset : Evaluator where
  pointer := .hostFix
  context := none

/-- R131. -/
def EventQueue.reset : EventQueue where
  waiting := []
  held := []
  nextSeq := 0
  nextArrival := 0
  admitWaiting := 0
  admitFirstId := none
  overrunWaiting := 0
  armed := false
  mask := BitVec.allOnes 8

/-- R153, with the strap level read at the end of the reset. -/
def HostLink.reset (hrate : Bool) : HostLink where
  framer := .hunt
  fixSlot := .empty
  querySlot := .empty
  heldOrder := []
  replies := []
  fresh := true
  dropped := false
  hhold := false
  discarded := 0
  rate := LineRate.ofStrap hrate

/-- R167, with the strap level read at the end of the reset. -/
def FeedLink.reset (frate : Bool) : FeedLink where
  framer := .hunt
  queue := []
  fhold := false
  framesDiscarded := 0
  fixesDiscarded := 0
  rate := LineRate.ofStrap frate

/-- The defaults of R173. -/
def Params.reset : Params where
  autoAdmit := true
  minQuality := 4
  quietTime := 5000
  retireTime := 0
  redeliverTime := 2000
  objEventPrio := 3
  sysEventPrio := 6

end Sys2Proof.Machine
end

