-- ==== Sys2Proof/Machine/Geometry.lean ====
section
/-! DEFINITION. The inside test of chapter 1: exact integer arithmetic on the points of a zone (R3 to R17). -/

namespace Sys2Proof.Machine

/-- The half-open box test (R5); also the prefilter of a polygon (R14). -/
def Box.holds (b : Box) (x y : Int) : Bool :=
  b.xmin ≤ x && x < b.xmax && b.ymin ≤ y && y < b.ymax

/-- The edges of an outline: vertex i to vertex i+1, and the last vertex to the first (R6). -/
def edges (vs : List Point) : List (Point × Point) :=
  vs.zip (vs.tail ++ vs.take 1)

/-- The edge-side value of R7, for an edge with lower end L and upper end U. -/
def edgeSide (l u : Point) (x y : Int) : Int :=
  (u.x.toInt - l.x.toInt) * (y - l.y.toInt) - (x - l.x.toInt) * (u.y.toInt - l.y.toInt)

/-- The edge with lower end L and upper end U crosses the point (R7). -/
def crosses (l u : Point) (x y : Int) : Bool :=
  l.y.toInt ≤ y && y < u.y.toInt && 0 < edgeSide l u x y

/-- What an edge from A to B adds to the winding sum: +1 crossed upward, -1 crossed downward, 0 when not crossed or when its
ends have equal y (R6, R8). -/
def contribution (x y : Int) (edge : Point × Point) : Int :=
  if edge.1.y.toInt < edge.2.y.toInt then
    if crosses edge.1 edge.2 x y then 1 else 0
  else if edge.2.y.toInt < edge.1.y.toInt then
    if crosses edge.2 edge.1 x y then -1 else 0
  else 0

/-- The number of crossed edges (R8). -/
def crossingCount (vs : List Point) (x y : Int) : Nat :=
  ((edges vs).filter fun e => contribution x y e != 0).length

/-- The sum of the contributions (R8). -/
def windingSum (vs : List Point) (x y : Int) : Int :=
  ((edges vs).map (contribution x y)).sum

/-- The fill rules (R9, R10). -/
def fillInside (rule : FillRule) (vs : List Point) (x y : Int) : Bool :=
  match rule with
  | .evenOdd => crossingCount vs x y % 2 == 1
  | .nonzero => windingSum vs x y != 0

/-- Vertex `i` of a chain: place `i mod 8` of the chain's block `i / 8` (R23). -/
def vertexAt (pool : Table Block 512) (chain : List BlockNo) (i : Nat) : Point :=
  match chain[i / 8]? with
  | some b => (pool.get b).get ⟨i % 8, Nat.mod_lt i (by decide)⟩
  | none => ⟨0, 0⟩

/-- The vertices of a polygon of `count` vertices, in order (R23). -/
def verticesOf (pool : Table Block 512) (chain : List BlockNo) (count : Nat) : List Point :=
  (List.range count).map (vertexAt pool chain)

/-- The geometric result of a zone's geometry at a point (R4, R5, R9, R10, R14). -/
def geometricResult (pool : Table Block 512) (g : Geometry) (x y : Int) : Bool :=
  match g with
  | .box b => b.holds x y
  | .polygon rule count chain bounds =>
    bounds.holds x y && fillInside rule (verticesOf pool chain count) x y

/-- The raw result of a record for a point and a class; none for an ABSENT record (R4, R15, R16, R17). -/
def rawResult (pool : Table Block 512) (r : ActiveRec) (x y : Coord) (cls : BitVec 3) : Option Bool :=
  match r with
  | .absent _ _ => none
  | .live g attrs _ =>
    some (attrs.filter.getLsbD cls.toNat && (geometricResult pool g x.toInt y.toInt != attrs.invert))

/-- The bounding box of an outline: least and greatest coordinates, the greatest plus 1 (R13). -/
def boundingBox (vs : List Point) : Box :=
  let xs := vs.map fun p => p.x.toInt
  let ys := vs.map fun p => p.y.toInt
  { xmin := xs.foldl min (xs.headD 0)
    ymin := ys.foldl min (ys.headD 0)
    xmax := xs.foldl max (xs.headD 0) + 1
    ymax := ys.foldl max (ys.headD 0) + 1 }

/-- All vertices share one x, or all share one y: an extent of 0 (R13, R32). -/
def flat (vs : List Point) : Bool :=
  let b := boundingBox vs
  b.xmax - b.xmin ≤ 1 || b.ymax - b.ymin ≤ 1

end Sys2Proof.Machine
end

