-- ==== Sys2Proof/Machine/State.lean ====
section
/-! DEFINITION. The state of the ZM2416, why it may stop, and its value after a pin reset. -/

namespace Sys2Proof.Machine

/-- Why the machine stops. The spec gives the block no machine fault: every refusal of a request is a result code in a reply.
There is no constructor, so no command faults (safe: nothing is stopped that the part would do). -/
inductive Fault where
deriving DecidableEq, Repr

/-- Why a command has no meaning here. -/
inductive Refusal where
  /-- Raised only by an arm of `exec` whose command has no meaning yet; none is left. Safe: the run stops. -/
  | notModelled (mnemonic : String)
deriving DecidableEq, Repr

/-! ### The whole part -/

/-- The state of the part. `pending` is the queue of waiting commands; `paceIndex` is the model's own (log entry 3). -/
structure State where
  pending : List Instr
  resetn : Bool
  partTime : Nat
  paceIndex : Nat
  zs : ZoneStore
  slots : Table Slot 128
  ev : Evaluator
  dirty : List SlotNo
  eq : EventQueue
  hlc : HostLink
  flr : FeedLink
  params : Params
deriving DecidableEq, Repr

/-- The part after a pin reset that reads these strap levels (R181). -/
def State.afterReset (hrate frate : Bool) : State where
  pending := []
  resetn := true
  partTime := 0
  paceIndex := 0
  zs := ZoneStore.reset
  slots := Table.fill 128 Slot.empty
  ev := Evaluator.reset
  dirty := []
  eq := EventQueue.reset
  hlc := HostLink.reset hrate
  flr := FeedLink.reset frate
  params := Params.reset

/-- The machine right after reset. The strap levels are log entry 7. -/
def State.reset : State :=
  State.afterReset false false

/-! ### Named updates -/

def State.withPending (s : State) (v : List Instr) : State := { s with pending := v }
def State.withResetn (s : State) (v : Bool) : State := { s with resetn := v }
def State.withPartTime (s : State) (v : Nat) : State := { s with partTime := v }
def State.withPaceIndex (s : State) (v : Nat) : State := { s with paceIndex := v }
def State.withZs (s : State) (v : ZoneStore) : State := { s with zs := v }
def State.withSlots (s : State) (v : Table Slot 128) : State := { s with slots := v }
def State.withEv (s : State) (v : Evaluator) : State := { s with ev := v }
def State.withDirty (s : State) (v : List SlotNo) : State := { s with dirty := v }
def State.withEq (s : State) (v : EventQueue) : State := { s with eq := v }
def State.withHlc (s : State) (v : HostLink) : State := { s with hlc := v }
def State.withFlr (s : State) (v : FeedLink) : State := { s with flr := v }
def State.withParams (s : State) (v : Params) : State := { s with params := v }

end Sys2Proof.Machine
end

