-- ==== Sys2Proof/Machine/Operands.lean ====
section
/-! DEFINITION. The operands of the requests and the bodies of the replies: the request types, the payload lengths, the field layouts
and the codes of chapter 9. -/

namespace Sys2Proof.Machine

/-! ### Request types and lengths -/

/-- The TYPE bytes that name a request (section 7.4). -/
def requestTypes : List Byte :=
  [0x01, 0x02, 0x03, 0x04, 0x05, 0x08, 0x09, 0x0A, 0x0B, 0x0C, 0x0D, 0x0E, 0x0F, 0x10,
   0x14, 0x15, 0x16, 0x17, 0x18, 0x1A, 0x1B, 0x1C, 0x1E]

/-- The TYPE byte names a request (R139, step 1). -/
def assignedType (type : Byte) : Bool :=
  requestTypes.contains type

/-- The payload lengths of DEFINE_ZONE, by the kind byte (R169). -/
def defineZoneLength (p : List Byte) : Bool :=
  2 ≤ p.length &&
    match (byteAt p 1).toNat with
    | 0 => p.length == 17
    | 1 => p.length == 5
    | 2 => p.length == 5
    | _ => p.length == 5 || p.length == 17

/-- The payload lengths of ADD_VERTICES, by the count byte (R169). -/
def addVerticesLength (p : List Byte) : Bool :=
  2 ≤ p.length && p.length == 2 + 6 * (byteAt p 1).toNat

/-! ### Attribute block -/

/-- The zone attribute block at an offset; its spare bits are dropped (section 9.3, R170). -/
def attrsAt (p : List Byte) (off : Nat) : Attrs :=
  let b0 := byteAt p off
  let b2 := byteAt p (off + 2)
  { priority := b0.extractLsb' 5 3
    invert := b0.getLsbD 4
    quiet := if b0.getLsbD 3 then .drop else .hold
    filter := byteAt p (off + 1)
    enterCount := b2.extractLsb' 4 4
    exitCount := b2.extractLsb' 0 4 }

/-- The three bytes of an attribute block, spare bits 0 (section 9.3, R170). -/
def attrsBytes (a : Attrs) : List Byte :=
  [(a.priority ++ BitVec.ofBool a.invert ++ BitVec.ofBool (a.quiet == .drop) ++ (0 : BitVec 3) : BitVec 8),
   a.filter,
   (a.enterCount ++ a.exitCount : BitVec 8)]

/-- R27: the counts are not 0. -/
def Attrs.legal (a : Attrs) : Bool :=
  a.enterCount != 0 && a.exitCount != 0

/-! ### Boxes and vertices -/

/-- The box of a DEFINE_ZONE payload (section 9.3). -/
def boxAt (p : List Byte) (off : Nat) : Box where
  xmin := (coordAt p off).toInt
  ymin := (coordAt p (off + 3)).toInt
  xmax := (coordAt p (off + 6)).toInt
  ymax := (coordAt p (off + 9)).toInt

/-- A vertex's 6 bytes (section 9.3). -/
def vertexBytes (v : Point) : List Byte :=
  coordBytes v.x ++ coordBytes v.y

/-- The `k` vertices of an ADD_VERTICES payload (section 9.3). -/
def verticesAt (p : List Byte) (k : Nat) : List Point :=
  (List.range k).map fun j => ⟨coordAt p (2 + 6 * j), coordAt p (2 + 6 * j + 3)⟩

/-- The four box fields of READ_ZONE (section 9.5). -/
def boxBytes (b : Box) : List Byte :=
  int32Bytes b.xmin ++ int32Bytes b.ymin ++ int32Bytes b.xmax ++ int32Bytes b.ymax

/-! ### Zones -/

/-- The sets of zone ids as bits: the zones for which `f` holds. -/
def zonesWhere (f : ZoneId → Bool) : ZoneSet :=
  BitVec.ofFnLE f

/-- Zone `z` is in the set. -/
def inSet (s : ZoneSet) (z : ZoneId) : Bool :=
  s.getLsbD z.val

/-- The zones of a set in ascending id. -/
def zonesOf (s : ZoneSet) : List ZoneId :=
  (List.finRange 64).filter (inSet s)

/-- Kind codes (section 9.7). -/
def Geometry.kindCode : Geometry → Byte
  | .box _ => 0
  | .polygon .evenOdd _ _ _ => 1
  | .polygon .nonzero _ _ _ => 2

/-- Kind code of a fill rule (section 9.7). -/
def FillRule.code : FillRule → Byte
  | .evenOdd => 1
  | .nonzero => 2

/-- The box of a BOX, or the bounding box of a polygon (R41). -/
def Geometry.bounds : Geometry → Box
  | .box b => b
  | .polygon _ _ _ b => b

/-- The vertex count, 0 for a BOX (R41). -/
def Geometry.count : Geometry → Nat
  | .box _ => 0
  | .polygon _ n _ _ => n

/-- The vertex chain, empty for a BOX (R23). -/
def Geometry.chain : Geometry → List BlockNo
  | .box _ => []
  | .polygon _ _ c _ => c

/-- Draft entry state codes (section 9.7). -/
def DraftEntry.code : DraftEntry → Byte
  | .inherit => 0
  | .opened _ _ _ _ => 1
  | .closed _ _ => 2
  | .amended _ => 3
  | .deleted => 4

/-- The entry is DEFINED_OPEN. -/
def DraftEntry.isOpen : DraftEntry → Bool
  | .opened _ _ _ _ => true
  | _ => false

/-! ### Objects -/

/-- Object state codes (section 9.7). -/
def SlotPhase.code : SlotPhase → Byte
  | .free => 0
  | .tracked => 1
  | .quiet => 2
  | .retiring => 3

/-- Retire cause codes (section 9.7). -/
def RetireCause.code : RetireCause → Byte
  | .none => 0
  | .quiet => 5
  | .retire => 6

/-- A bit as a byte 0 or 1. -/
def boolByte (b : Bool) : Byte :=
  if b then 1 else 0

/-- The (zone id, count) pairs of the run counters that are not 0, in ascending zone id (R69). -/
def counterPairs (run : Table Nat 64) : List (ZoneId × Nat) :=
  ((List.finRange 64).map fun z => (z, run.get z)).filter fun p => p.2 != 0

/-- The READ_OBJECT body (R69, section 9.5). -/
def readObjectBody (i : SlotNo) (sl : Slot) : List Byte :=
  let fix : LastFix := sl.lastFix.getD ⟨0, 0, 0, 0⟩
  let pairs := counterPairs sl.run
  [BitVec.ofNat 8 i.val, sl.phase.code, BitVec.ofNat 8 sl.cls.toNat,
   (0 : BitVec 5) ++ BitVec.ofBool sl.toldQuiet ++ BitVec.ofBool sl.dirty ++ BitVec.ofBool sl.lastFix.isSome,
   sl.cause.code, sl.stale]
  ++ beBytes 4 fix.time.toNat ++ coordBytes fix.x ++ coordBytes fix.y ++ [BitVec.ofNat 8 fix.quality.toNat]
  ++ zoneSetBytes sl.inside ++ zoneSetBytes sl.toldSet
  ++ [BitVec.ofNat 8 pairs.length]
  ++ pairs.flatMap fun p => [BitVec.ofNat 8 p.1.val, BitVec.ofNat 8 p.2]

/-! ### Events -/

/-- Cause codes (section 9.7). -/
def Cause.code : Cause → Byte
  | .fix => 1
  | .catchup => 2
  | .zoneRemoved => 3
  | .zoneChanged => 4
  | .quiet => 5
  | .retire => 6

/-- Event kind codes (section 9.7). -/
def EventKind.code : EventKind → Byte
  | .enter _ _ _ _ _ => 1
  | .exit _ _ _ _ _ => 2
  | .quiet _ _ _ => 3
  | .resumed _ _ _ => 4
  | .retired _ _ => 5
  | .admitRefused _ _ => 6
  | .feedOverrun _ => 7

/-- The fix part an event holds (R112). -/
def EventKind.fixPart : EventKind → Option FixPart
  | .enter _ _ _ _ f => f
  | .exit _ _ _ _ f => f
  | .quiet _ _ f => f
  | .resumed _ _ f => f
  | .retired _ _ => none
  | .admitRefused _ _ => none
  | .feedOverrun _ => none

/-- The 10 bytes of a fix part, or none (section 9.4). -/
def fixPartBytes : Option FixPart → List Byte
  | none => []
  | some f => beBytes 4 f.time.toNat ++ coordBytes f.x ++ coordBytes f.y

/-- The fields of an event record after its header and before its fix part (section 9.4). -/
def EventKind.fieldBytes : EventKind → List Byte
  | .enter id z c g _ => beBytes 4 id.toNat ++ [BitVec.ofNat 8 z.val, c.code] ++ beBytes 2 g.toNat
  | .exit id z c g _ => beBytes 4 id.toNat ++ [BitVec.ofNat 8 z.val, c.code] ++ beBytes 2 g.toNat
  | .quiet id c _ => beBytes 4 id.toNat ++ [c.code]
  | .resumed id c _ => beBytes 4 id.toNat ++ [c.code]
  | .retired id c => beBytes 4 id.toNat ++ [c.code]
  | .admitRefused id n => beBytes 4 id.toNat ++ beBytes 2 n.toNat
  | .feedOverrun n => beBytes 2 n.toNat

/-- The event record of TAKE_EVENT (section 9.4, R171). -/
def eventRecord (e : Event) : List Byte :=
  beBytes 2 e.seq.toNat ++
  [e.kind.code,
   (BitVec.ofBool e.redelivered ++ BitVec.ofBool e.kind.fixPart.isSome ++ (0 : BitVec 3) ++ e.priority : BitVec 8)] ++
  e.kind.fieldBytes ++ fixPartBytes e.kind.fixPart

/-! ### Results and parameters -/

/-- Result codes (section 9.7). -/
def Result.code : Result → Byte
  | .ok => 0x00
  | .okLate => 0x01
  | .nothing => 0x02
  | .empty => 0x03
  | .unknownType => 0x10
  | .badLength => 0x11
  | .badValue => 0x12
  | .duplicateTag => 0x13
  | .slotBusy => 0x14
  | .aborted => 0x15
  | .noZone => 0x20
  | .zoneState => 0x21
  | .noSpace => 0x22
  | .badShape => 0x23
  | .draftOpen => 0x24
  | .noObject => 0x30
  | .objectExists => 0x31
  | .tableFull => 0x32
  | .staleFix => 0x33
  | .lowQuality => 0x34
  | .objectState => 0x35
  | .heldFull => 0x40
  | .unknownSeq => 0x41

/-- A parameter with a new value, or none when the id or the value is out of range (R173, R174). -/
def Params.set (p : Params) (id : Byte) (v : Nat) : Option Params :=
  match id.toNat with
  | 1 => if v ≤ 1 then some { p with autoAdmit := v == 1 } else none
  | 2 => if v ≤ 15 then some { p with minQuality := BitVec.ofNat 4 v } else none
  | 3 => if v = 0 ∨ 100 ≤ v ∧ v ≤ 600000 then some { p with quietTime := v } else none
  | 4 => if v = 0 ∨ 100 ≤ v ∧ v ≤ 3600000 then some { p with retireTime := v } else none
  | 5 => if 10 ≤ v ∧ v ≤ 60000 then some { p with redeliverTime := v } else none
  | 6 => if v ≤ 7 then some { p with objEventPrio := BitVec.ofNat 3 v } else none
  | 7 => if v ≤ 7 then some { p with sysEventPrio := BitVec.ofNat 3 v } else none
  | _ => none

/-- The value of a parameter, or none for an id outside 1..7 (R173, R175). -/
def Params.value (p : Params) (id : Byte) : Option Nat :=
  match id.toNat with
  | 1 => some (if p.autoAdmit then 1 else 0)
  | 2 => some p.minQuality.toNat
  | 3 => some p.quietTime
  | 4 => some p.retireTime
  | 5 => some p.redeliverTime
  | 6 => some p.objEventPrio.toNat
  | 7 => some p.sysEventPrio.toNat
  | _ => none

end Sys2Proof.Machine
end

