-- ==== Sys2Proof/Machine/Flags.lean ====
section
/-! DEFINITION. The levels and flags: HHOLD, FHOLD, ATTN, HTX and the FLAGS byte of a reply. -/

namespace Sys2Proof.Machine

/-- The free entries of the reply queue (R149). -/
def HostLink.freeEntries (h : HostLink) : Nat :=
  6 - h.replies.length

/-- HHOLD settled to the free entries: on below 2, off at 4 or more, else kept (R150). -/
def HostLink.settle (h : HostLink) : HostLink :=
  { h with hhold := if h.freeEntries < 2 then true else if 4 ≤ h.freeEntries then false else h.hhold }

/-- FHOLD settled to the level of the Fix Queue: on at 28 or more, off at 16 or less, else kept (R164). -/
def FeedLink.settle (f : FeedLink) : FeedLink :=
  { f with fhold := if 28 ≤ f.queue.length then true else if f.queue.length ≤ 16 then false else f.fhold }

/-- An event whose priority the mask enables stands on the pending list (R127). -/
def EventQueue.enabledPending (q : EventQueue) : Bool :=
  q.waiting.any fun e => q.mask.getLsbD e.priority.toNat

/-- The ATTN level (R127); deasserted while RESETn is low (R181). -/
def State.attn (s : State) : Bool :=
  s.resetn && s.eq.armed && s.eq.enabledPending

/-- The HHOLD level as the pin shows it (R150, R181). -/
def State.hholdPin (s : State) : Bool :=
  s.resetn && s.hlc.hhold

/-- The FHOLD level as the pin shows it (R164, R181). -/
def State.fholdPin (s : State) : Bool :=
  s.resetn && s.flr.fhold

/-- The bytes of a reply's frame on HTX (R140, R149). -/
def Reply.frame (r : Reply) : List Byte :=
  frameBytes r.type r.tag (r.result.code :: r.flags :: r.body)

/-- What HTX carries: the frame of the reply in transmission, or none while it stays high (R133, R149, R181). -/
def State.htx (s : State) : Option (List Byte) :=
  if s.resetn then s.hlc.replies.head?.map Reply.frame else none

/-- The FLAGS byte from FRESH, DROPPED, PENDING and DIRTY (section 9.2). -/
def flagsByte (fresh dropped pending dirty : Bool) : Byte :=
  ((0 : BitVec 4) ++ BitVec.ofBool dirty ++ BitVec.ofBool pending ++ BitVec.ofBool dropped ++ BitVec.ofBool fresh : BitVec 8)

/-- The FLAGS of a reply formed now (R141, R142). -/
def State.replyFlags (s : State) : Byte :=
  flagsByte s.hlc.fresh s.hlc.dropped (!s.eq.waiting.isEmpty) (!s.dirty.isEmpty)

end Sys2Proof.Machine
end

