-- ==== Sys2Proof/Machine/Ops.lean ====
section
/-! DEFINITION. The shared operations: replies, the event queue, the reporter with its reconciler, and the slots of the Object Table. -/

namespace Sys2Proof.Machine

/-! ### Replies -/

/-- The tag of an occupied deferred slot, or none. -/
def Deferred.tag? {α : Type} : Deferred α → Option Byte
  | .empty => none
  | .waiting tag _ => some tag
  | .granted tag _ => some tag
  | .replyHeld tag _ _ => some tag

/-- The slot is occupied: WAITING, GRANTED or REPLY_HELD (section 7.6). -/
def Deferred.occupied {α : Type} (d : Deferred α) : Bool :=
  d.tag?.isSome

/-- A reply is formed: its flags are read, both marks are consumed, it joins the tail, and HHOLD is settled
(R140 to R142, R149, R150). `type` is the request's TYPE. -/
def formReply (type tag : Byte) (result : Result) (body : List Byte) (s : State) : State :=
  let reply : Reply := ⟨type + 0x80, tag, result, s.replyFlags, body⟩
  s.withHlc (HostLink.settle { s.hlc with replies := s.hlc.replies ++ [reply], fresh := false, dropped := false })

/-- A well-formed request is discarded for want of a reply entry (R151). -/
def dropRequest (s : State) : State :=
  s.withHlc { s.hlc with dropped := true }

/-- What an owner answers to an immediate request: the state after it, the result and the body. -/
abbrev Answer := State × Result × List Byte

/-- An immediate request: discarded with no entry free, refused for its length, or executed with its reply formed in the same
step (R139, R143, R151). -/
def immediate (type tag : Byte) (lengthOk : Bool) (run : State → Answer) (s : State) : State :=
  if s.hlc.freeEntries = 0 then dropRequest s
  else if lengthOk then
    let a := run s
    formReply type tag a.2.1 a.2.2 a.1
  else formReply type tag .badLength [] s

/-! ### Event queue -/

/-- The free entries of the event queue (R111). -/
def EventQueue.free (q : EventQueue) : Nat :=
  96 - q.waiting.length - q.held.length

/-- A queued event, pending or held, carries this number (R114). -/
def EventQueue.carries (q : EventQueue) (v : BitVec 16) : Bool :=
  q.waiting.any (fun e => e.seq == v) || q.held.any (fun h => h.event.seq == v)

/-- The first value at or after `v` that no queued event carries, within `n` steps (R114). -/
def EventQueue.stepSeq (q : EventQueue) : Nat → BitVec 16 → BitVec 16
  | 0, v => v
  | n + 1, v => if q.carries v then q.stepSeq n (v + 1) else v

/-- The number the next event takes (R114). The bound is past the number of queued events, so a free value is met. -/
def EventQueue.freshSeq (q : EventQueue) : BitVec 16 :=
  q.stepSeq (q.waiting.length + q.held.length + 1) q.nextSeq

/-- Event `e` stands before `x` on the pending list: higher priority, or the same and an earlier arrival (R116). -/
def Event.before (e x : Event) : Bool :=
  x.priority.toNat < e.priority.toNat || (x.priority == e.priority && e.arrival < x.arrival)

/-- An event takes its place on the pending list (R116). -/
def insertEvent (e : Event) : List Event → List Event
  | [] => [e]
  | x :: xs => if e.before x then e :: x :: xs else x :: insertEvent e xs

/-- An event joins the queue for the first time (R114, R115, R116). -/
def EventQueue.join (q : EventQueue) (kind : EventKind) (priority : BitVec 3) : EventQueue :=
  let seq := q.freshSeq
  { q with
    waiting := insertEvent ⟨seq, kind, priority, q.nextArrival, false⟩ q.waiting
    nextSeq := seq + 1
    nextArrival := q.nextArrival + 1 }

/-- The system kinds (section 6.5). -/
inductive SystemKind where
  | admitRefused | feedOverrun
deriving DecidableEq, Repr

/-- The system kind of an event, if it has one. -/
def EventKind.system? : EventKind → Option SystemKind
  | .admitRefused _ _ => some .admitRefused
  | .feedOverrun _ => some .feedOverrun
  | _ => none

/-- The count of a system event (R112); 0 of the others. -/
def EventKind.reports : EventKind → BitVec 16
  | .admitRefused _ n => n
  | .feedOverrun n => n
  | _ => 0

/-- A system event's count raised by `n` reports, saturating (R123, R125). -/
def EventKind.addReports (n : BitVec 16) : EventKind → EventKind
  | .admitRefused id c => .admitRefused id (satAdd c n)
  | .feedOverrun c => .feedOverrun (satAdd c n)
  | k => k

/-- An event of this system kind. -/
def Event.isSystem (k : SystemKind) (e : Event) : Bool :=
  e.kind.system? == some k

/-- The reports `n` go into the pending event of the kind, which keeps everything but its count (R123, R125). -/
def EventQueue.raisePending (q : EventQueue) (k : SystemKind) (n : BitVec 16) : EventQueue :=
  { q with waiting := q.waiting.map fun e => if e.isSystem k then { e with kind := e.kind.addReports n } else e }

/-- A report of a system kind (R123); `id` is the refused id of an ADMIT_REFUSED. -/
def EventQueue.report (q : EventQueue) (k : SystemKind) (id : ObjId) (priority : BitVec 3) : EventQueue :=
  if q.waiting.any (Event.isSystem k) then q.raisePending k 1
  else if 0 < q.free then
    match k with
    | .admitRefused => q.join (.admitRefused id 1) priority
    | .feedOverrun => q.join (.feedOverrun 1) priority
  else
    match k with
    | .admitRefused =>
      { q with admitWaiting := satInc q.admitWaiting, admitFirstId := some (q.admitFirstId.getD id) }
    | .feedOverrun => { q with overrunWaiting := satInc q.overrunWaiting }

/-- The waiting count of a system kind (R123). -/
def EventQueue.waitingCount (q : EventQueue) : SystemKind → BitVec 16
  | .admitRefused => q.admitWaiting
  | .feedOverrun => q.overrunWaiting

/-- The waiting count of a kind returns to 0, and a kept id is dropped (R125, R126). -/
def EventQueue.clearWaiting (q : EventQueue) : SystemKind → EventQueue
  | .admitRefused => { q with admitWaiting := 0, admitFirstId := none }
  | .feedOverrun => { q with overrunWaiting := 0 }

/-- The event that a waiting count becomes (R126). -/
def EventQueue.waitingKind (q : EventQueue) : SystemKind → EventKind
  | .admitRefused => .admitRefused (q.admitFirstId.getD 0) q.admitWaiting
  | .feedOverrun => .feedOverrun q.overrunWaiting

/-- A waiting system kind is queued when an entry is free (R126, steps 1 and 2). -/
def EventQueue.queueWaiting (k : SystemKind) (priority : BitVec 3) (q : EventQueue) : EventQueue :=
  if q.waitingCount k ≠ 0 ∧ 0 < q.free then (q.join (q.waitingKind k) priority).clearWaiting k else q

/-- A held event whose timer expires returns to the pending list, merged first when it is of a system kind; the answer says whether
an entry was freed (R121, R125). -/
def EventQueue.giveBack (q : EventQueue) (h : Held) : EventQueue × Bool :=
  let q := { q with held := q.held.eraseP fun x => x.event.seq == h.event.seq }
  let e := { h.event with redelivered := true }
  match e.kind.system? with
  | none => ({ q with waiting := insertEvent e q.waiting }, false)
  | some k =>
    match q.waiting.find? (Event.isSystem k) with
    | some p =>
      if p.arrival < e.arrival then (q.raisePending k e.kind.reports, true)
      else
        let merged := { e with kind := e.kind.addReports p.kind.reports }
        ({ q with waiting := insertEvent merged (q.waiting.eraseP fun x => x.seq == p.seq) }, true)
    | none =>
      let grown := { e with kind := e.kind.addReports (q.waitingCount k) }
      (EventQueue.clearWaiting { q with waiting := insertEvent grown q.waiting } k, false)

/-! ### Slots -/

/-- The slot that is not FREE and holds the id (R47). -/
def findObject (slots : Table Slot 128) (id : ObjId) : Option SlotNo :=
  (List.finRange 128).find? fun i => (slots.get i).phase != .free && (slots.get i).id == id

/-- The lowest-numbered FREE slot (R54, R77). -/
def lowestFree (slots : Table Slot 128) : Option SlotNo :=
  (List.finRange 128).find? fun i => (slots.get i).phase == .free

/-- A slot that an object has just entered (R54, R77). -/
def Slot.entered (id : ObjId) (cls : BitVec 3) (quietTime : Nat) : Slot :=
  { Slot.empty with phase := .tracked, id := id, cls := cls, quietTimer := Timer.start quietTime }

/-- A slot is freed and leaves the dirty list (R53, R96, R100). -/
def freeSlot (i : SlotNo) (s : State) : State :=
  (s.withSlots (s.slots.set i Slot.empty)).withDirty (s.dirty.filter (· != i))

/-! ### Reporter -/

/-- An event of a group before it is queued: kind, zone and cause (R92). -/
inductive Notice where
  | resumed (cause : Cause)
  | exit (zone : ZoneId) (cause : Cause)
  | enter (zone : ZoneId) (cause : Cause)
  | quiet (cause : Cause)
  | retired (cause : RetireCause)
deriving DecidableEq, Repr

/-- The cause a RETIRED event carries (R112). -/
def RetireCause.cause : RetireCause → Cause
  | .quiet => .quiet
  | .retire => .retire
  | .none => .retire

/-- The fix part of the object's last fix. A completion stores its fix as the last fix in the step that hands its group over, so the
last fix is also the fix of a group with cause FIX (R84, R86, R93). -/
def Slot.fixPart (sl : Slot) : Option FixPart :=
  sl.lastFix.map fun f => ⟨f.time, f.x, f.y⟩

/-- The fix part of an ENTER or EXIT (R93). -/
def zoneFixPart (sl : Slot) : Cause → Option FixPart
  | .fix => sl.fixPart
  | .catchup => sl.fixPart
  | _ => none

/-- The event a notice becomes when it is queued (R93, R108). -/
def noticeKind (generation : BitVec 16) (sl : Slot) : Notice → EventKind
  | .resumed c => .resumed sl.id c sl.fixPart
  | .exit z c => .exit sl.id z c generation (zoneFixPart sl c)
  | .enter z c => .enter sl.id z c generation (zoneFixPart sl c)
  | .quiet c => .quiet sl.id c sl.fixPart
  | .retired c => .retired sl.id c.cause

/-- The priority of a zone's ENTER or EXIT (R107): the active priority of a LIVE zone; of an ABSENT zone the last priority for cause
ZONE_REMOVED, else OBJ_EVENT_PRIO (log entry 17). -/
def zonePriority (r : ActiveRec) (objPrio : BitVec 3) (c : Cause) : BitVec 3 :=
  match r with
  | .live _ attrs _ => attrs.priority
  | .absent _ lastPriority => if c = .zoneRemoved then lastPriority else objPrio

/-- The priority of an event as it is queued (R107). -/
def noticePriority (active : Table ActiveRec 64) (objPrio : BitVec 3) : Notice → BitVec 3
  | .exit z c => zonePriority (active.get z) objPrio c
  | .enter z c => zonePriority (active.get z) objPrio c
  | _ => objPrio

/-- The told record after an event (R95). -/
def Slot.told (sl : Slot) : Notice → Slot
  | .resumed _ => { sl with toldQuiet := false }
  | .exit z _ => { sl with toldSet := sl.toldSet &&& ~~~(BitVec.twoPow 64 z.val) }
  | .enter z _ => { sl with toldSet := sl.toldSet ||| BitVec.twoPow 64 z.val }
  | .quiet _ => { sl with toldQuiet := true }
  | .retired _ => sl

/-- One event of a group is queued, and the told record follows; RETIRED frees the slot (R94, R95, R96). -/
def queueNotice (i : SlotNo) (s : State) (n : Notice) : State :=
  let sl := s.slots.get i
  let s := s.withEq (s.eq.join (noticeKind s.zs.generation sl n)
    (noticePriority s.zs.active s.params.objEventPrio n))
  match n with
  | .retired _ => freeSlot i s
  | n => s.withSlots (s.slots.modify i fun sl => sl.told n)

/-- A whole group is queued, in group order (R94, R105). -/
def queueGroup (i : SlotNo) (group : List Notice) (s : State) : State :=
  group.foldl (queueNotice i) s

/-- The exits of a set of zones in ascending id (R92). -/
def exits (zones : ZoneSet) (c : Cause) : List Notice :=
  (zonesOf zones).map fun z => .exit z c

/-- The entries of a set of zones in ascending id (R92). -/
def enters (zones : ZoneSet) (c : Cause) : List Notice :=
  (zonesOf zones).map fun z => .enter z c

/-- The catch-up group of an object: the truth less the told record (R101). -/
def catchUpGroup (sl : Slot) : List Notice :=
  (if sl.phase = .tracked ∧ sl.toldQuiet then [.resumed .catchup] else []) ++
  exits (sl.toldSet &&& ~~~sl.inside) .catchup ++
  enters (sl.inside &&& ~~~sl.toldSet) .catchup ++
  (if sl.phase = .quiet ∧ sl.toldQuiet = false then [.quiet .catchup] else []) ++
  (if sl.phase = .retiring then [.retired sl.cause] else [])

/-- The object is clean and off the dirty list (R105). -/
def clearDirty (i : SlotNo) (s : State) : State :=
  (s.withSlots (s.slots.modify i fun sl => { sl with dirty := false })).withDirty (s.dirty.filter (· != i))

/-- The reserve of the reconciler (R104). -/
def reserve : Nat := 8

/-- The reconciler works the dirty list from its head while the head's group and the reserve fit (R104, R105). Each round takes
one object off the list, so the list's length bounds the rounds. -/
def reconcileRounds : Nat → State → State
  | 0, s => s
  | n + 1, s =>
    match s.dirty with
    | [] => s
    | i :: _ =>
      let group := catchUpGroup (s.slots.get i)
      if group.length + reserve ≤ s.eq.free then
        reconcileRounds n (clearDirty i (queueGroup i group s))
      else s

/-- The reconciler acts (R103, R104). -/
def reconcile (s : State) : State :=
  reconcileRounds s.dirty.length s

/-- An object becomes dirty and joins the tail of the dirty list; on an empty list the reconciler acts (R97, R100, R103). -/
def markDirty (i : SlotNo) (s : State) : State :=
  let s' := (s.withSlots (s.slots.modify i fun sl => { sl with dirty := true })).withDirty (s.dirty ++ [i])
  if s.dirty.isEmpty then reconcile s' else s'

/-- The fresh group of a clean object fits (R94). -/
def groupFits (i : SlotNo) (group : List Notice) (s : State) : Bool :=
  !(s.slots.get i).dirty && group.length ≤ s.eq.free

/-- A fresh group is handed to the Reporter: queued whole, or refused with the object dirty (R94, R97). An empty group hands nothing. -/
def freshGroup (i : SlotNo) (group : List Notice) (s : State) : State :=
  if group.isEmpty then s
  else if groupFits i group s then queueGroup i group s
  else if (s.slots.get i).dirty then s
  else markDirty i s

/-- The number of events `freshGroup` queues for the group (R86, R97). -/
def groupQueued (i : SlotNo) (group : List Notice) (s : State) : Nat :=
  if groupFits i group s then group.length else 0

/-- The work of a freed entry: the waiting system kinds, then the reconciler (R126). -/
def entryFreed (s : State) : State :=
  let p := s.params.sysEventPrio
  reconcile (s.withEq ((s.eq.queueWaiting .admitRefused p).queueWaiting .feedOverrun p))

/-- A report of a system kind reaches the event queue (R123, R113). -/
def reportSystem (k : SystemKind) (id : ObjId) (s : State) : State :=
  s.withEq (s.eq.report k id s.params.sysEventPrio)

/-- The zones an object leaves and the state it is left in when it is retired (R59, R61). -/
def retireObject (i : SlotNo) (cause : RetireCause) (s : State) : State :=
  let sl := s.slots.get i
  let group := exits sl.inside .retire ++ [.retired cause]
  freshGroup i group
    (s.withSlots (s.slots.set i
      { sl with
        phase := .retiring
        cause := cause
        inside := 0
        run := Table.fill 64 0
        quietTimer := .stopped
        retireTimer := .stopped }))

/-! ### Deferred replies -/

/-- The request TYPE of a deferred slot (section 7.4). -/
def DeferredSlot.type : DeferredSlot → Byte
  | .fix => 0x15
  | .query => 0x1E

/-- The tag of the request the slot has in evaluation, if it is GRANTED. -/
def HostLink.grantedTag (h : HostLink) : DeferredSlot → Option Byte
  | .fix => match h.fixSlot with
    | .granted tag _ => some tag
    | _ => none
  | .query => match h.querySlot with
    | .granted tag _ => some tag
    | _ => none

/-- The slot becomes EMPTY. -/
def HostLink.emptySlot (h : HostLink) : DeferredSlot → HostLink
  | .fix => { h with fixSlot := .empty }
  | .query => { h with querySlot := .empty }

/-- The slot becomes REPLY_HELD, behind a reply already held (R146, R147). -/
def HostLink.holdReply (h : HostLink) (d : DeferredSlot) (tag : Byte) (result : Result) (body : List Byte) : HostLink :=
  match d with
  | .fix => { h with fixSlot := .replyHeld tag result body, heldOrder := h.heldOrder ++ [d] }
  | .query => { h with querySlot := .replyHeld tag result body, heldOrder := h.heldOrder ++ [d] }

/-- The reply a REPLY_HELD slot keeps. -/
def HostLink.heldReply (h : HostLink) : DeferredSlot → Option (Byte × Result × List Byte)
  | .fix => match h.fixSlot with
    | .replyHeld tag r b => some (tag, r, b)
    | _ => none
  | .query => match h.querySlot with
    | .replyHeld tag r b => some (tag, r, b)
    | _ => none

/-- The end of a deferred request's evaluation: its reply enters the queue and the slot becomes EMPTY, or the reply is held (R146). -/
def finishDeferred (d : DeferredSlot) (result : Result) (body : List Byte) (s : State) : State :=
  match s.hlc.grantedTag d with
  | none => s
  | some tag =>
    if s.hlc.freeEntries = 0 then s.withHlc (s.hlc.holdReply d tag result body)
    else formReply d.type tag result body (s.withHlc (s.hlc.emptySlot d))

/-- A held reply, the one whose evaluation ended first, takes a freed entry (R147). -/
def releaseHeldReply (s : State) : State :=
  match s.hlc.heldOrder with
  | [] => s
  | d :: rest =>
    match s.hlc.heldReply d with
    | none => s
    | some (tag, result, body) =>
      formReply d.type tag result body (s.withHlc { s.hlc.emptySlot d with heldOrder := rest })

/-! ### Running and held in reset -/

/-- An event of the running part. While RESETn is low the part is held and nothing is taken (R181, log entry 5). -/
def whenRunning (f : State → State) (s : State) : State :=
  if s.resetn then f s else s

end Sys2Proof.Machine
end

