-- ==== Sys2Proof/Machine/Reset.lean ====
section
/-! DEFINITION. The reset pin (R181). -/

namespace Sys2Proof.Machine

/-- PIN_RESET: every block takes its pin-reset values and the straps are read (R181). The queue of commands and the index of free
values are the model's own and go on. -/
def execPinReset (hrate frate : Bool) (s : State) : Host.Outcome State Fault Refusal :=
  .next { State.afterReset hrate frate with pending := s.pending, paceIndex := s.paceIndex }

/-- RESETN_LOW: the part is held and HHOLD and FHOLD are deasserted; ATTN and HTX follow RESETn (R181, log entry 12). -/
def execResetnLow (s : State) : Host.Outcome State Fault Refusal :=
  .next { s with
    resetn := false
    hlc := { s.hlc with hhold := false }
    flr := { s.flr with fhold := false } }

end Sys2Proof.Machine
end

