-- ==== Sys2Proof/Machine/ZoneStore.lean ====
section
/-! DEFINITION. The requests of the Zone Store (chapter 2), each a function of the store and the payload, and COMMIT with its
consequences in the Evaluator and the Object Table. -/

namespace Sys2Proof.Machine

/-- What the Zone Store answers to a request. -/
abbrev ZoneAnswer := ZoneStore × Result × List Byte

/-! ### Records, entries and chains -/

/-- The record is LIVE (R18). -/
def ActiveRec.isLive : ActiveRec → Bool
  | .live _ _ _ => true
  | .absent _ _ => false

/-- The vertex chain of a record (R18, R23). -/
def ActiveRec.chain : ActiveRec → List BlockNo
  | .live g _ _ => g.chain
  | .absent _ _ => []

/-- The change stamp of a record (R19). -/
def ActiveRec.stamp : ActiveRec → BitVec 16
  | .live _ _ st => st
  | .absent st _ => st

/-- The priority of a LIVE record, the last priority of an ABSENT one (R18). -/
def ActiveRec.priority : ActiveRec → BitVec 3
  | .live _ a _ => a.priority
  | .absent _ p => p

/-- The draft chain of an entry (R21, R23). -/
def DraftEntry.chain : DraftEntry → List BlockNo
  | .opened _ _ _ c => c
  | .closed g _ => g.chain
  | _ => []

/-- Blocks that `n` vertices occupy (R23). -/
def blocksFor (n : Nat) : Nat := (n + 7) / 8

/-- A draft entry is replaced; the chain it held is freed to the tail of the free list (R24, R29, R34). -/
def ZoneStore.replaceEntry (zs : ZoneStore) (z : ZoneId) (e : DraftEntry) : ZoneStore :=
  { zs with freeList := zs.freeList ++ (zs.draft.get z).chain, draft := zs.draft.set z e }

/-- A draft entry changes and keeps its chain (R32, R33). -/
def ZoneStore.setEntry (zs : ZoneStore) (z : ZoneId) (e : DraftEntry) : ZoneStore :=
  { zs with draft := zs.draft.set z e }

/-- A request that names a zone checks the id first (R22). -/
def withZone (zs : ZoneStore) (b : Byte) (f : ZoneId → ZoneAnswer) : ZoneAnswer :=
  match zoneIdOf b with
  | none => (zs, .badValue, [])
  | some z => f z

/-! ### Drafting -/

/-- DEFINE_ZONE (R28, R29): id, kind, attribute block, box; then the entry is replaced. -/
def ZoneStore.defineZone (p : List Byte) (zs : ZoneStore) : ZoneAnswer :=
  withZone zs (byteAt p 0) fun z =>
    let attrs := attrsAt p 2
    if 3 ≤ (byteAt p 1).toNat then (zs, .badValue, [])
    else if !attrs.legal then (zs, .badValue, [])
    else match (byteAt p 1).toNat with
      | 0 =>
        let b := boxAt p 5
        if b.xmin < b.xmax ∧ b.ymin < b.ymax then (zs.replaceEntry z (.closed (.box b) attrs), .ok, [])
        else (zs, .badShape, [])
      | 1 => (zs.replaceEntry z (.opened .evenOdd attrs 0 []), .ok, [])
      | _ => (zs.replaceEntry z (.opened .nonzero attrs 0 []), .ok, [])

/-- AMEND_ZONE (R33). -/
def ZoneStore.amendZone (p : List Byte) (zs : ZoneStore) : ZoneAnswer :=
  withZone zs (byteAt p 0) fun z =>
    let attrs := attrsAt p 1
    if !attrs.legal then (zs, .badValue, [])
    else match zs.draft.get z with
      | .inherit =>
        if (zs.active.get z).isLive then (zs.setEntry z (.amended attrs), .ok, []) else (zs, .noZone, [])
      | .opened rule _ n chain => (zs.setEntry z (.opened rule attrs n chain), .ok, [])
      | .closed g _ => (zs.setEntry z (.closed g attrs), .ok, [])
      | .amended _ => (zs.setEntry z (.amended attrs), .ok, [])
      | .deleted => (zs, .noZone, [])

/-- Vertex `i` of a chain is written in its place (R23, R31). -/
def writeVertex (pool : Table Block 512) (chain : List BlockNo) (i : Nat) (v : Point) : Table Block 512 :=
  match chain[i / 8]? with
  | some b => pool.modify b fun blk => blk.set ⟨i % 8, Nat.mod_lt i (by decide)⟩ v
  | none => pool

/-- Vertices are written from place `i` on, in order (R31). -/
def writeVertices (pool : Table Block 512) (chain : List BlockNo) : Nat → List Point → Table Block 512
  | _, [] => pool
  | i, v :: vs => writeVertices (writeVertex pool chain i v) chain (i + 1) vs

/-- ADD_VERTICES (R30, R31): id, count, entry state, total, space; then the blocks are taken and the vertices written. -/
def ZoneStore.addVertices (p : List Byte) (zs : ZoneStore) : ZoneAnswer :=
  withZone zs (byteAt p 0) fun z =>
    let k := (byteAt p 1).toNat
    if k = 0 ∨ 16 < k then (zs, .badValue, [])
    else match zs.draft.get z with
      | .opened rule attrs n chain =>
        let need := blocksFor (n + k) - blocksFor n
        if 512 < n + k then (zs, .badShape, [])
        else if zs.freeList.length < need then (zs, .noSpace, beBytes 2 zs.freeList.length)
        else
          let chain' := chain ++ zs.freeList.take need
          ({ zs with
              freeList := zs.freeList.drop need
              pool := writeVertices zs.pool chain' n (verticesAt p k)
              draft := zs.draft.set z (.opened rule attrs (n + k) chain') }, .ok, [])
      | _ => (zs, .zoneState, [])

/-- CLOSE_ZONE (R32, R13). -/
def ZoneStore.closeZone (p : List Byte) (zs : ZoneStore) : ZoneAnswer :=
  withZone zs (byteAt p 0) fun z =>
    match zs.draft.get z with
    | .opened rule attrs n chain =>
      let vs := verticesOf zs.pool chain n
      if n < 3 ∨ flat vs then (zs, .badShape, [])
      else (zs.setEntry z (.closed (.polygon rule n chain (boundingBox vs)) attrs), .ok, [])
    | _ => (zs, .zoneState, [])

/-- DELETE_ZONE (R34). -/
def ZoneStore.deleteZone (p : List Byte) (zs : ZoneStore) : ZoneAnswer :=
  withZone zs (byteAt p 0) fun z =>
    if (zs.active.get z).isLive then (zs.replaceEntry z .deleted, .ok, [])
    else match zs.draft.get z with
      | .inherit => (zs, .noZone, [])
      | _ => (zs.replaceEntry z .inherit, .ok, [])

/-- The chains of every draft entry, in ascending zone id (R24, R35). -/
def ZoneStore.draftChains (zs : ZoneStore) : List BlockNo :=
  (List.finRange 64).flatMap fun z => (zs.draft.get z).chain

/-- DISCARD_DRAFT (R35). -/
def ZoneStore.discardDraft (zs : ZoneStore) : ZoneAnswer :=
  ({ zs with freeList := zs.freeList ++ zs.draftChains, draft := Table.fill 64 .inherit }, .ok, [])

/-! ### Reading -/

/-- The attributes of an ABSENT view: the last priority alone (R41, R172). -/
def absentAttrs (lastPriority : BitVec 3) : Attrs :=
  ⟨lastPriority, false, .hold, 0, 0, 0⟩

/-- The fields of a view in a READ_ZONE body (section 9.5). -/
def viewBytes (state kind : Byte) (attrs : Attrs) (box : Box) (count : Nat) : List Byte :=
  [state, kind] ++ attrsBytes attrs ++ boxBytes box ++ beBytes 2 count

/-- An ABSENT view (R41, R42). -/
def absentView (lastPriority : BitVec 3) : List Byte :=
  viewBytes 0 0 (absentAttrs lastPriority) ⟨0, 0, 0, 0⟩ 0

/-- A LIVE view (R41, R42). -/
def liveView (g : Geometry) (attrs : Attrs) : List Byte :=
  viewBytes 2 g.kindCode attrs g.bounds g.count

/-- The ACTIVE view (R41). -/
def activeView : ActiveRec → List Byte
  | .absent _ p => absentView p
  | .live g a _ => liveView g a

/-- The DRAFT view (R42). -/
def draftView (r : ActiveRec) : DraftEntry → List Byte
  | .inherit => activeView r
  | .opened rule attrs n _ => viewBytes 1 rule.code attrs ⟨0, 0, 0, 0⟩ n
  | .closed g attrs => liveView g attrs
  | .amended attrs => match r with
    | .live g _ _ => liveView g attrs
    | .absent _ p => absentView p
  | .deleted => absentView r.priority

/-- READ_ZONE (R41, R42). -/
def ZoneStore.readZone (p : List Byte) (zs : ZoneStore) : ZoneAnswer :=
  withZone zs (byteAt p 0) fun z =>
    let r := zs.active.get z
    let e := zs.draft.get z
    match (byteAt p 1).toNat with
    | 0 => (zs, .ok, e.code :: activeView r ++ beBytes 2 r.stamp.toNat)
    | 1 => (zs, .ok, e.code :: draftView r e ++ beBytes 2 r.stamp.toNat)
    | _ => (zs, .badValue, [])

/-- The vertices of a record in the ACTIVE view (R43). -/
def ZoneStore.activeVertices (zs : ZoneStore) : ActiveRec → List Point
  | .live g _ _ => verticesOf zs.pool g.chain g.count
  | .absent _ _ => []

/-- The vertices of the draft view (R43). -/
def ZoneStore.draftVertices (zs : ZoneStore) (r : ActiveRec) : DraftEntry → List Point
  | .inherit => zs.activeVertices r
  | .opened _ _ n chain => verticesOf zs.pool chain n
  | .closed g _ => verticesOf zs.pool g.chain g.count
  | .amended _ => zs.activeVertices r
  | .deleted => []

/-- READ_VERTICES of a vertex list (R43, section 9.5). -/
def ZoneStore.vertexAnswer (zs : ZoneStore) (vs : List Point) (first : Nat) : ZoneAnswer :=
  if vs.length ≤ first then (zs, .badValue, [])
  else
    let part := (vs.drop first).take 16
    (zs, .ok, beBytes 2 vs.length ++ [BitVec.ofNat 8 part.length] ++ part.flatMap vertexBytes)

/-- READ_VERTICES (R43). -/
def ZoneStore.readVertices (p : List Byte) (zs : ZoneStore) : ZoneAnswer :=
  withZone zs (byteAt p 0) fun z =>
    let r := zs.active.get z
    match (byteAt p 1).toNat with
    | 0 => zs.vertexAnswer (zs.activeVertices r) (field p 2 2)
    | 1 => zs.vertexAnswer (zs.draftVertices r (zs.draft.get z)) (field p 2 2)
    | _ => (zs, .badValue, [])

/-! ### COMMIT -/

/-- The next generation number: 65535 is followed by 1 (R20). -/
def nextGeneration (g : BitVec 16) : BitVec 16 :=
  if g = BitVec.allOnes 16 then 1 else g + 1

/-- Two attribute blocks differ in something other than the priority (R37). -/
def Attrs.differs (a b : Attrs) : Bool :=
  { a with priority := b.priority } != b

/-- The commit changes this id's record in something other than its priority (R37). -/
def changedBy (r : ActiveRec) : DraftEntry → Bool
  | .inherit => false
  | .opened _ _ _ _ => false
  | .closed _ _ => true
  | .amended a => match r with
    | .live _ old _ => old.differs a
    | .absent _ _ => false
  | .deleted => true

/-- The record a commit of generation `g` leaves (R36, R19). -/
def committed (g : BitVec 16) (r : ActiveRec) (e : DraftEntry) : ActiveRec :=
  match e with
  | .inherit => r
  | .opened _ _ _ _ => r
  | .closed geo attrs => .live geo attrs g
  | .amended a => match r with
    | .live geo _ st => .live geo a (if changedBy r e then g else st)
    | .absent st p => .absent st p
  | .deleted => .absent g r.priority

/-- The chain that leaves the active view at a commit (R38). -/
def departing (r : ActiveRec) : DraftEntry → List BlockNo
  | .closed _ _ => r.chain
  | .deleted => r.chain
  | _ => []

/-- The lowest zone id whose entry is DEFINED_OPEN (R36). -/
def ZoneStore.lowestOpen (zs : ZoneStore) : Option ZoneId :=
  (List.finRange 64).find? fun z => (zs.draft.get z).isOpen

/-- Every draft entry is INHERIT (R36). -/
def ZoneStore.noDraft (zs : ZoneStore) : Bool :=
  (List.finRange 64).all fun z => zs.draft.get z == .inherit

/-- The changed set of an effective commit (R37). -/
def ZoneStore.changedSet (zs : ZoneStore) : ZoneSet :=
  zonesWhere fun z => changedBy (zs.active.get z) (zs.draft.get z)

/-- The departing chains in ascending zone id (R38). -/
def ZoneStore.departingChains (zs : ZoneStore) : List BlockNo :=
  (List.finRange 64).flatMap fun z => departing (zs.active.get z) (zs.draft.get z)

/-- The store after an effective commit taken while the Evaluator is busy or idle (R36, R38). -/
def ZoneStore.commit (busy : Bool) (zs : ZoneStore) : ZoneStore :=
  let g := nextGeneration zs.generation
  { zs with
    active := Table.ofFn fun z => committed g (zs.active.get z) (zs.draft.get z)
    draft := Table.fill 64 .inherit
    generation := g
    freeList := if busy then zs.freeList else zs.freeList ++ zs.departingChains
    retiring := if busy then zs.retiring ++ zs.departingChains else zs.retiring }

/-- The changed ids join the void set of the evaluation in flight (R39, R81). -/
def Evaluator.addVoid (changed : ZoneSet) (ev : Evaluator) : Evaluator :=
  { ev with context := ev.context.map fun c => { c with void := c.void ||| changed } }

/-- A commit forces this object out of the zone: now ABSENT, or LIVE with a filter that excludes the class (R66). -/
def forcedOut (cls : BitVec 3) : ActiveRec → Bool
  | .absent _ _ => true
  | .live _ attrs _ => !attrs.filter.getLsbD cls.toNat

/-- The zones a commit removes from an object's inside set (R66). -/
def lostZones (active : Table ActiveRec 64) (changed : ZoneSet) (sl : Slot) : ZoneSet :=
  if sl.phase = .tracked ∨ sl.phase = .quiet then
    zonesWhere fun z => inSet changed z && inSet sl.inside z && forcedOut sl.cls (active.get z)
  else 0

/-- The run counters of the changed zones return to 0 (R65). -/
def clearRuns (changed : ZoneSet) (run : Table Nat 64) : Table Nat 64 :=
  Table.ofFn fun z => if inSet changed z then 0 else run.get z

/-- A slot after the consequences of a commit (R65, R66). -/
def commitSlot (active : Table ActiveRec 64) (changed : ZoneSet) (sl : Slot) : Slot :=
  if sl.phase = .free then sl
  else { sl with run := clearRuns changed sl.run, inside := sl.inside &&& ~~~lostZones active changed sl }

/-- The group of forced exits of an object (R66). -/
def forcedExits (active : Table ActiveRec 64) (changed : ZoneSet) (sl : Slot) : List Notice :=
  (zonesOf (lostZones active changed sl)).map fun z =>
    .exit z (if (active.get z).isLive then .zoneChanged else .zoneRemoved)

/-- The consequences of a commit in the Object Table: every slot in one step, then the groups in ascending slot order (R65, R66). -/
def commitObjects (changed : ZoneSet) (s : State) : State :=
  let active := s.zs.active
  let old := s.slots
  (List.finRange 128).foldl (fun s i => freshGroup i (forcedExits active changed (old.get i)) s)
    (s.withSlots (old.map (commitSlot active changed)))

/-- An effective commit (R36, R39). -/
def applyCommit (s : State) : State :=
  let changed := s.zs.changedSet
  let zs := s.zs.commit s.ev.context.isSome
  commitObjects changed ((s.withZs zs).withEv (s.ev.addVoid changed))

/-- COMMIT (R36). -/
def answerCommit (s : State) : Answer :=
  match s.zs.lowestOpen with
  | some z => (s, .draftOpen, [BitVec.ofNat 8 z.val])
  | none =>
    if s.zs.noDraft then (s, .nothing, [])
    else
      let s' := applyCommit s
      (s', .ok, beBytes 2 s'.zs.generation.toNat)

/-! ### The requests as answers of the part -/

/-- A request of the Zone Store alone: no other block changes. -/
def zoneRequest (f : ZoneStore → ZoneAnswer) (s : State) : Answer :=
  let a := f s.zs
  (s.withZs a.1, a.2.1, a.2.2)

/-- DEFINE_ZONE decoded (R139, R169). -/
def requestDefineZone (tag : Byte) (p : List Byte) (s : State) : State :=
  immediate 0x08 tag (defineZoneLength p) (zoneRequest (ZoneStore.defineZone p)) s

/-- AMEND_ZONE decoded. -/
def requestAmendZone (tag : Byte) (p : List Byte) (s : State) : State :=
  immediate 0x09 tag (p.length == 4) (zoneRequest (ZoneStore.amendZone p)) s

/-- ADD_VERTICES decoded. -/
def requestAddVertices (tag : Byte) (p : List Byte) (s : State) : State :=
  immediate 0x0A tag (addVerticesLength p) (zoneRequest (ZoneStore.addVertices p)) s

/-- CLOSE_ZONE decoded. -/
def requestCloseZone (tag : Byte) (p : List Byte) (s : State) : State :=
  immediate 0x0B tag (p.length == 1) (zoneRequest (ZoneStore.closeZone p)) s

/-- DELETE_ZONE decoded. -/
def requestDeleteZone (tag : Byte) (p : List Byte) (s : State) : State :=
  immediate 0x0C tag (p.length == 1) (zoneRequest (ZoneStore.deleteZone p)) s

/-- DISCARD_DRAFT decoded. -/
def requestDiscardDraft (tag : Byte) (p : List Byte) (s : State) : State :=
  immediate 0x0D tag (p.length == 0) (zoneRequest ZoneStore.discardDraft) s

/-- COMMIT decoded. -/
def requestCommit (tag : Byte) (p : List Byte) (s : State) : State :=
  immediate 0x0E tag (p.length == 0) answerCommit s

/-- READ_ZONE decoded. -/
def requestReadZone (tag : Byte) (p : List Byte) (s : State) : State :=
  immediate 0x0F tag (p.length == 2) (zoneRequest (ZoneStore.readZone p)) s

/-- READ_VERTICES decoded. -/
def requestReadVertices (tag : Byte) (p : List Byte) (s : State) : State :=
  immediate 0x10 tag (p.length == 4) (zoneRequest (ZoneStore.readVertices p)) s

end Sys2Proof.Machine
end

