-- ==== Sys2Proof/Machine/Evaluator.lean ====
section
/-! DEFINITION. The Evaluator (chapter 4): grants, start checks, the walk, and the completions of fixes and queries. -/

namespace Sys2Proof.Machine

/-! ### The arbiter -/

/-- The source after this one in the cyclic order (R73). -/
def Source.next : Source → Source
  | .hostFix => .query
  | .query => .feed
  | .feed => .hostFix

/-- A deferred slot waits for a grant (R72). -/
def Deferred.waits {α : Type} : Deferred α → Bool
  | .waiting _ _ => true
  | _ => false

/-- A source waits (R72). -/
def sourceWaits (s : State) : Source → Bool
  | .hostFix => s.hlc.fixSlot.waits
  | .query => s.hlc.querySlot.waits
  | .feed => !s.flr.queue.isEmpty

/-- The first waiting source at or after the pointer (R73). -/
def arbiterChoice (s : State) : Option Source :=
  let p := s.ev.pointer
  [p, p.next, p.next.next].find? (sourceWaits s)

/-- The Zone Store frees the retiring list as the Evaluator becomes idle (R26). -/
def ZoneStore.freeRetiring (zs : ZoneStore) : ZoneStore :=
  { zs with freeList := zs.freeList ++ zs.retiring, retiring := [] }

/-- The Evaluator becomes idle: the context is dropped and the retiring list is freed (R89). -/
def becomeIdle (s : State) : State :=
  (s.withEv { s.ev with context := none }).withZs s.zs.freeRetiring

/-- The feed-fixes-discarded counter rises (R78, R83, R166). -/
def countFeedFix (s : State) : State :=
  s.withFlr { s.flr with fixesDiscarded := satInc s.flr.fixesDiscarded }

/-! ### Opening -/

/-- What the start checks find (R76). -/
inductive Opening where
  | objectState
  | noObject
  | tableFull
  | staleFix (slot : SlotNo)
  | accepted (slot : SlotNo)
  | admitted (slot : SlotNo)
deriving DecidableEq, Repr

/-- The start checks of a fix, in the order of the table (R76). -/
def startChecks (f : Fix) (s : State) : Opening :=
  match findObject s.slots f.id with
  | some i =>
    let sl := s.slots.get i
    if sl.phase = .retiring then .objectState
    else match sl.lastFix with
      | none => .accepted i
      | some last => if newer f.time last.time then .accepted i else .staleFix i
  | none =>
    if s.params.autoAdmit then
      match lowestFree s.slots with
      | none => .tableFull
      | some i => .admitted i
    else .noObject

/-- A context as an evaluation opens (R79, R87). -/
def Context.start (job : Job) : Context where
  job := job
  void := 0
  raw := Table.fill 64 .unset
  walk := 0

/-- An evaluation begins. -/
def openContext (job : Job) (s : State) : State :=
  s.withEv { s.ev with context := some (Context.start job) }

/-- The stale count of a refused fix's object rises (R68, R78). -/
def countStale (i : SlotNo) (s : State) : State :=
  s.withSlots (s.slots.modify i fun sl => { sl with stale := satInc sl.stale })

/-- A fix is opened: refused by `refused`, or evaluated as `job` of its slot (R76 to R79). -/
def openFix (f : Fix) (job : SlotNo → Job) (refused : Result → State → State) (s : State) : State :=
  match startChecks f s with
  | .objectState => becomeIdle (refused .objectState s)
  | .noObject => becomeIdle (refused .noObject s)
  | .tableFull => becomeIdle (refused .tableFull (reportSystem .admitRefused f.id s))
  | .staleFix i => becomeIdle (refused .staleFix (countStale i s))
  | .accepted i => openContext (job i) s
  | .admitted i =>
    openContext (job i) (s.withSlots (s.slots.set i (Slot.entered f.id f.cls s.params.quietTime)))

/-- The request of the host fix slot, granted (R72, R74). -/
def grantHostFix (s : State) : State :=
  match s.hlc.fixSlot with
  | .waiting tag f =>
    openFix f (fun i => .hostFix i f) (fun r => finishDeferred .fix r [])
      (s.withHlc { s.hlc with fixSlot := .granted tag f })
  | _ => s

/-- The request of the query slot, granted: no start checks (R74, R87). -/
def grantQuery (s : State) : State :=
  match s.hlc.querySlot with
  | .waiting tag q =>
    openContext (.query q s.zs.generation) (s.withHlc { s.hlc with querySlot := .granted tag q })
  | _ => s

/-- The head of the Fix Queue, granted: it leaves the queue and FHOLD is settled (R74, R164). -/
def grantFeed (s : State) : State :=
  match s.flr.queue with
  | f :: rest =>
    openFix f (fun i => .feedFix i f) (fun _ => countFeedFix)
      (s.withFlr (FeedLink.settle { s.flr with queue := rest }))
  | [] => s

/-- A grant moves the pointer to the source after the one granted, and opens the evaluation (R73, R74). -/
def grant (src : Source) (s : State) : State :=
  let s := s.withEv { s.ev with pointer := src.next }
  match src with
  | .hostFix => grantHostFix s
  | .query => grantQuery s
  | .feed => grantFeed s

/-- The arbiter grants when the Evaluator is idle and a source waits; otherwise nothing is granted (R73, log entry 4). -/
def arbitrate (s : State) : State :=
  if s.ev.context.isSome then s
  else match arbiterChoice s with
    | none => s
    | some src => grant src s

/-! ### The walk -/

/-- The class and the point an evaluation tests with (R79, R87). -/
def Job.point : Job → Coord × Coord × BitVec 3
  | .hostFix _ f => (f.x, f.y, f.cls)
  | .feedFix _ f => (f.x, f.y, f.cls)
  | .query q _ => (q.x, q.y, q.cls)

/-- The place of a zone in the raw-result list as the walk reaches it (R80). -/
def rawCell (zs : ZoneStore) (c : Context) (z : ZoneId) : RawCell :=
  if inSet c.void z then .void
  else match rawResult zs.pool (zs.active.get z) c.job.point.1 c.job.point.2.1 c.job.point.2.2 with
    | none => .void
    | some r => .result r

/-- One zone of the walk; past zone 63 nothing moves (R80). -/
def walkZone (zs : ZoneStore) (c : Context) : Context :=
  if h : c.walk < 64 then
    { c with raw := c.raw.set ⟨c.walk, h⟩ (rawCell zs c ⟨c.walk, h⟩), walk := c.walk + 1 }
  else c

/-- `n` zones of the walk. -/
def walkZones (zs : ZoneStore) : Nat → Context → Context
  | 0, c => c
  | n + 1, c => walkZones zs n (walkZone zs c)

/-- The walk to its end (R80). -/
def walkAll (zs : ZoneStore) (c : Context) : Context :=
  walkZones zs (64 - c.walk) c

/-- The zone is void for the evaluation (R81). -/
def Context.isVoid (c : Context) (z : ZoneId) : Bool :=
  inSet c.void z || (c.raw.get z == .void)

/-- The raw result of a zone is 1. -/
def Context.rawIn (c : Context) (z : ZoneId) : Bool :=
  c.raw.get z == .result true

/-! ### Completion of a fix -/

/-- The dwell filter on one zone: inside bit and run counter after a raw result (R85). -/
def dwell (inside r : Bool) (run enterCount exitCount : Nat) : Bool × Nat :=
  if inside = r then (inside, 0)
  else if (if inside then exitCount else enterCount) ≤ run + 1 then (r, 0)
  else (inside, run + 1)

/-- Inside bit and run counter of a zone after a written completion; a void zone keeps both (R84, R85). -/
def dwellZone (active : Table ActiveRec 64) (c : Context) (sl : Slot) (z : ZoneId) : Bool × Nat :=
  let keep := (inSet sl.inside z, sl.run.get z)
  if c.isVoid z then keep
  else match active.get z with
    | .live _ a _ => dwell keep.1 (c.rawIn z) keep.2 a.enterCount.toNat a.exitCount.toNat
    | .absent _ _ => keep

/-- The inside set after the dwell filter. -/
def dwellInside (active : Table ActiveRec 64) (c : Context) (sl : Slot) : ZoneSet :=
  zonesWhere fun z => (dwellZone active c sl z).1

/-- The slot after a written completion (R84). -/
def completedSlot (active : Table ActiveRec 64) (c : Context) (f : Fix) (quietTime : Nat) (sl : Slot) : Slot :=
  { sl with
    phase := .tracked
    cls := f.cls
    lastFix := some ⟨f.time, f.x, f.y, f.quality⟩
    inside := dwellInside active c sl
    run := Table.ofFn fun z => (dwellZone active c sl z).2
    quietTimer := Timer.start quietTime
    retireTimer := .stopped }

/-- The group of a written completion (R86). -/
def completionGroup (active : Table ActiveRec 64) (c : Context) (sl : Slot) : List Notice :=
  let inside := dwellInside active c sl
  (if sl.phase = .quiet then [.resumed .fix] else []) ++
  exits (sl.inside &&& ~~~inside) .fix ++
  enters (inside &&& ~~~sl.inside) .fix

/-- The slot still holds the id as TRACKED or QUIET (R82). -/
def stillHolds (sl : Slot) (id : ObjId) : Bool :=
  sl.id == id && (sl.phase == .tracked || sl.phase == .quiet)

/-- A written completion, with its group handed over (R84, R86). -/
def writeCompletion (c : Context) (i : SlotNo) (f : Fix) (s : State) : State :=
  let sl := s.slots.get i
  freshGroup i (completionGroup s.zs.active c sl)
    (s.withSlots (s.slots.set i (completedSlot s.zs.active c f s.params.quietTime sl)))

/-- The POST_FIX body (R86, section 9.5). -/
def postFixBody (c : Context) (i : SlotNo) (f : Fix) (s : State) : List Byte :=
  let sl := s.slots.get i
  let done := completedSlot s.zs.active c f s.params.quietTime sl
  let group := completionGroup s.zs.active c sl
  [SlotPhase.tracked.code] ++ zoneSetBytes done.inside ++
  [BitVec.ofNat 8 (groupQueued i group (s.withSlots (s.slots.set i done))),
   boolByte ((writeCompletion c i f s).slots.get i).dirty]

/-- The completion of a host fix (R82 to R86, R146). -/
def completeHostFix (c : Context) (i : SlotNo) (f : Fix) (s : State) : State :=
  if stillHolds (s.slots.get i) f.id then
    finishDeferred .fix .ok (postFixBody c i f s) (writeCompletion c i f s)
  else finishDeferred .fix .objectState [] s

/-- The completion of a feed fix (R82 to R86). -/
def completeFeedFix (c : Context) (i : SlotNo) (f : Fix) (s : State) : State :=
  if stillHolds (s.slots.get i) f.id then writeCompletion c i f s else countFeedFix s

/-- The walk of a fix passes zone 63 and its completion is taken; with no fix in evaluation nothing happens (R82, log entry 4). -/
def completeFix (s : State) : State :=
  match s.ev.context with
  | none => s
  | some c =>
    let c := walkAll s.zs c
    match c.job with
    | .hostFix i f => becomeIdle (completeHostFix c i f s)
    | .feedFix i f => becomeIdle (completeFeedFix c i f s)
    | .query _ _ => s

/-! ### Completion of a query -/

/-- The zones a query reports inside: not void, and a raw result of 1 (R88). -/
def queryInside (c : Context) : ZoneSet :=
  zonesWhere fun z => !c.isVoid z && c.rawIn z

/-- The QUERY_POINT body (R88, section 9.5). -/
def queryBody (c : Context) (generation : BitVec 16) : List Byte :=
  zoneSetBytes (queryInside c) ++ zoneSetBytes c.void ++ beBytes 2 generation.toNat

/-- The walk of a query passes zone 63 and its reply is formed; with no query in evaluation nothing happens (R88, log entry 4). -/
def completeQuery (s : State) : State :=
  match s.ev.context with
  | none => s
  | some c =>
    let c := walkAll s.zs c
    match c.job with
    | .query _ generation => becomeIdle (finishDeferred .query .ok (queryBody c generation) s)
    | _ => s

/-! ### The commands -/

/-- ARBITER_GRANT (R73 to R79, R87). -/
def execArbiterGrant (s : State) : Host.Outcome State Fault Refusal :=
  .next (whenRunning arbitrate s)

/-- FIX_COMPLETION (R80 to R86, R89). -/
def execFixCompletion (s : State) : Host.Outcome State Fault Refusal :=
  .next (whenRunning completeFix s)

/-- QUERY_COMPLETION (R80, R81, R88, R89). -/
def execQueryCompletion (s : State) : Host.Outcome State Fault Refusal :=
  .next (whenRunning completeQuery s)

end Sys2Proof.Machine
end

