-- ==== Sys2Proof/Machine/EventRequests.lean ====
section
/-! DEFINITION. The requests of the Event Queue and Attention unit (R118, R119, R128) and the redelivery of a held event (R121). -/

namespace Sys2Proof.Machine

/-- The first pending event goes to the tail of the held list with a fresh timer; without KEEP_ARMED, ATTN is disarmed (R118). -/
def EventQueue.take (q : EventQueue) (e : Event) (rest : List Event) (keepArmed : Bool) (redeliverTime : Nat) : EventQueue :=
  { q with
    waiting := rest
    held := q.held ++ [⟨e, .running redeliverTime 0⟩]
    armed := q.armed && keepArmed }

/-- TAKE_EVENT (R118). -/
def answerTake (p : List Byte) (s : State) : Answer :=
  if 8 ≤ s.eq.held.length then (s, .heldFull, [])
  else match s.eq.waiting with
    | [] => (s, .empty, [])
    | e :: rest =>
      (s.withEq (s.eq.take e rest (flagBit (byteAt p 0)) s.params.redeliverTime), .ok, eventRecord e)

/-- The event of this seq leaves the held list. -/
def EventQueue.dropHeld (q : EventQueue) (seq : BitVec 16) : EventQueue :=
  { q with held := q.held.eraseP fun h => h.event.seq == seq }

/-- The event of this seq leaves the pending list. -/
def EventQueue.dropWaiting (q : EventQueue) (seq : BitVec 16) : EventQueue :=
  { q with waiting := q.waiting.eraseP fun e => e.seq == seq }

/-- RELEASE_EVENT (R119): of a held event OK, of a redelivered pending event OK_LATE, else UNKNOWN_SEQ. -/
def answerRelease (p : List Byte) (s : State) : Answer :=
  let seq := BitVec.ofNat 16 (field p 0 2)
  if s.eq.held.any fun h => h.event.seq == seq then (entryFreed (s.withEq (s.eq.dropHeld seq)), .ok, [])
  else match s.eq.waiting.find? fun e => e.seq == seq with
    | some e =>
      if e.redelivered then (entryFreed (s.withEq (s.eq.dropWaiting seq)), .okLate, [])
      else (s, .unknownSeq, [])
    | none => (s, .unknownSeq, [])

/-- ARM_ATTN (R128). -/
def answerArm (p : List Byte) (s : State) : Answer :=
  match (byteAt p 1).toNat with
  | 0 => (s.withEq { s.eq with mask := byteAt p 0, armed := false }, .ok, [])
  | 1 => (s.withEq { s.eq with mask := byteAt p 0, armed := true }, .ok, [])
  | _ => (s, .badValue, [])

/-- TAKE_EVENT decoded. -/
def requestTakeEvent (tag : Byte) (p : List Byte) (s : State) : State :=
  immediate 0x1A tag (p.length == 1) (answerTake p) s

/-- RELEASE_EVENT decoded. -/
def requestReleaseEvent (tag : Byte) (p : List Byte) (s : State) : State :=
  immediate 0x1B tag (p.length == 2) (answerRelease p) s

/-- ARM_ATTN decoded. -/
def requestArmAttn (tag : Byte) (p : List Byte) (s : State) : State :=
  immediate 0x1C tag (p.length == 2) (answerArm p) s

/-- The redelivery of a held event, and the work of the entry a merge frees (R121, R125, R126). -/
def redeliver (h : Held) (s : State) : State :=
  let r := s.eq.giveBack h
  let s' := s.withEq r.1
  if r.2 then entryFreed s' else s'

end Sys2Proof.Machine
end

