-- ==== Sys2Proof/Machine/FeedLink.lean ====
section
/-! DEFINITION. The feed link (chapter 8): its framer, the checks of a frame and of its fixes, and the commands of FRX. -/

namespace Sys2Proof.Machine

/-- The TYPE of a FIX_BATCH (R160). -/
def fixBatchType : Byte := 0x21

/-- The feed framer with a new value. -/
def State.withFeedFramer (s : State) (f : Framer) : State :=
  s.withFlr { s.flr with framer := f }

/-- A feed frame is discarded whole and counted (R159, R160, R166). -/
def discardFeedFrame (s : State) : State :=
  s.withFlr { s.flr with framesDiscarded := satInc s.flr.framesDiscarded }

/-- The capacity of the Fix Queue (R163). -/
def fixQueueSize : Nat := 32

/-- The receipt refuses the fix for its id, reserved bit or quality (R161). -/
def badFix (minQuality : BitVec 4) (f : Fix) : Bool :=
  f.id == 0 || f.reserved || f.quality.toNat < minQuality.toNat

/-- A fix is discarded or dropped and counted (R161, R166). -/
def discardFix (s : State) : State :=
  s.withFlr { s.flr with fixesDiscarded := satInc s.flr.fixesDiscarded }

/-- One fix of a good frame is received (R161, R164, R165). -/
def receiveFix (s : State) (f : Fix) : State :=
  if badFix s.params.minQuality f then discardFix s
  else if fixQueueSize ≤ s.flr.queue.length then reportSystem .feedOverrun 0 (discardFix s)
  else s.withFlr (FeedLink.settle { s.flr with queue := s.flr.queue ++ [f] })

/-- The fixes of a good frame, in record order (R162). -/
def receiveFixes (fixes : List Fix) (s : State) : State :=
  fixes.foldl receiveFix s

/-- The checks of a feed frame whose CRC holds: TYPE, count, LEN (R160). -/
def goodFeedFrame (type : Byte) (p : List Byte) : Bool :=
  let n := (byteAt p 0).toNat
  type == fixBatchType && 1 ≤ p.length && 1 ≤ n && n ≤ 8 && p.length == 1 + 15 * n

/-- A feed frame whose CRC holds (R160, R162). -/
def feedFrame (type : Byte) (p : List Byte) (s : State) : State :=
  if goodFeedFrame type p then receiveFixes (fixesOf (byteAt p 0).toNat (p.drop 1)) s
  else discardFeedFrame s

/-- What the check of a feed frame finds is acted on (R159, R160). -/
def feedItem (s : State) : LinkItem → State
  | .frame type _ p => feedFrame type p s
  | .crcFail => discardFeedFrame s

/-- Bytes on FRX, one after another with no pause of 10 ms among them (R157, R159). What they complete is acted on with the framer in
HUNT, in which each check leaves it. -/
def feedBytes (bs : List Byte) (s : State) : State :=
  let r := s.flr.framer.receive bs
  (r.2.foldl feedItem (s.withFeedFramer .hunt)).withFeedFramer r.1

/-- A feed frame completes on FRX: decoded by `act` when the framer expects it, else taken byte by byte (R157 to R160, log entry 6). -/
def feedFrameArrives (type tag : Byte) (p : List Byte) (act : State → State) (s : State) : State :=
  if p.length ≤ 246 && s.flr.framer.expects (frameTail type tag p) then act (s.withFeedFramer .hunt)
  else feedBytes (frameBytes type tag p) s

/-- FIX_BATCH (R160 to R165). A count of records that makes no good frame is discarded whole (R160). -/
def execFixBatch (tag : Byte) (fixes : List Fix) (s : State) : Host.Outcome State Fault Refusal :=
  .next (whenRunning
    (feedFrameArrives fixBatchType tag (fixBatchPayload fixes)
      (if 1 ≤ fixes.length ∧ fixes.length ≤ 8 then receiveFixes fixes else discardFeedFrame)) s)

/-- FEED_FRAME_DISCARD (R160). A frame that passes every check is received as a FIX_BATCH. -/
def execFeedFrameDiscard (type tag : Byte) (p : List Byte) (s : State) : Host.Outcome State Fault Refusal :=
  .next (whenRunning (feedFrameArrives type tag p (feedFrame type p)) s)

/-- FEED_FRAME_CRC_FAIL: the bytes of the frame that are still to come arrive on FRX; its check fails, it is counted, and its stored bytes
are examined again (R159). -/
def execFeedFrameCrcFail (bytes : List Byte) (s : State) : Host.Outcome State Fault Refusal :=
  .next (whenRunning (fun s => feedBytes (s.flr.framer.remaining bytes) s) s)

/-- FEED_FRAME_START: the byte 0A5H arrives on FRX; in HUNT it opens a frame (R157). -/
def execFeedFrameStart (s : State) : Host.Outcome State Fault Refusal :=
  .next (whenRunning (feedBytes [startByte]) s)

/-- FEED_BAD_LEN: the byte arrives on FRX; in LENGTH a value of 0, 1 or 249..255 ends the frame (R157). -/
def execFeedBadLen (len : Byte) (s : State) : Host.Outcome State Fault Refusal :=
  .next (whenRunning (feedBytes [len]) s)

/-- The feed frame in reception is abandoned and nothing is counted (R158). -/
def abandonFeedFrame (s : State) : State :=
  s.withFeedFramer .hunt

/-- FEED_GAP_TIMEOUT: the gap timer, once it is due, expires (R1, R158, log entry 2). -/
def execFeedGapTimeout (s : State) : Host.Outcome State Fault Refusal :=
  .next (whenRunning (fun s => if s.flr.framer.gapDue then abandonFeedFrame s else s) s)

/-- FEED_FRAMING_FAULT: a character with a low stop bit abandons a frame in reception and is ignored in HUNT (R156, R158). -/
def execFeedFramingFault (s : State) : Host.Outcome State Fault Refusal :=
  .next (whenRunning abandonFeedFrame s)

end Sys2Proof.Machine
end

