-- ==== Sys2Proof/Machine/Deferred.lean ====
section
/-! DEFINITION. The deferred requests POST_FIX and QUERY_POINT at their decode (R144, R145, R151). -/

namespace Sys2Proof.Machine

/-- The tag is that of an occupied deferred slot, either slot (R144, step 3). -/
def HostLink.tagInUse (h : HostLink) (tag : Byte) : Bool :=
  h.fixSlot.tag? == some tag || h.querySlot.tag? == some tag

/-- A refusal of a deferred request is an immediate reply with no body, or the request is discarded (R144, R151). -/
def refuse (type tag : Byte) (r : Result) (s : State) : State :=
  if s.hlc.freeEntries = 0 then dropRequest s else formReply type tag r [] s

/-- The first failing check of a POST_FIX (R144). -/
def postFixRefusal (tag : Byte) (f : Fix) (s : State) : Option Result :=
  if f.id = 0 ∨ f.reserved then some .badValue
  else if f.quality.toNat < s.params.minQuality.toNat then some .lowQuality
  else if s.hlc.tagInUse tag then some .duplicateTag
  else if s.hlc.fixSlot.occupied then some .slotBusy
  else none

/-- POST_FIX decoded (R139, R144, R145). -/
def requestPostFix (tag : Byte) (p : List Byte) (s : State) : State :=
  if p.length ≠ 15 then refuse 0x15 tag .badLength s
  else
    let f := fixOf p
    match postFixRefusal tag f s with
    | some r => refuse 0x15 tag r s
    | none => s.withHlc { s.hlc with fixSlot := .waiting tag f }

/-- The first failing check of a QUERY_POINT (R144). -/
def queryRefusal (tag cls : Byte) (s : State) : Option Result :=
  if (classOf cls).isNone then some .badValue
  else if s.hlc.tagInUse tag then some .duplicateTag
  else if s.hlc.querySlot.occupied then some .slotBusy
  else none

/-- The query of a QUERY_POINT payload (section 9.3). -/
def queryOf (p : List Byte) : Query :=
  ⟨coordAt p 0, coordAt p 3, (byteAt p 6).extractLsb' 0 3⟩

/-- QUERY_POINT decoded (R139, R144, R145). -/
def requestQueryPoint (tag : Byte) (p : List Byte) (s : State) : State :=
  if p.length ≠ 7 then refuse 0x1E tag .badLength s
  else match queryRefusal tag (byteAt p 6) s with
    | some r => refuse 0x1E tag r s
    | none => s.withHlc { s.hlc with querySlot := .waiting tag (queryOf p) }

end Sys2Proof.Machine
end

