-- ==== Sys2Proof/Machine/ObjectTable.lean ====
section
/-! DEFINITION. The requests of the Object Table (chapter 3). -/

namespace Sys2Proof.Machine

/-- The object id at the head of a payload. -/
def objIdAt (p : List Byte) : ObjId :=
  BitVec.ofNat 32 (field p 0 4)

/-- DECLARE_OBJECT (R54): id, class, uniqueness, space; then the lowest FREE slot is taken. -/
def answerDeclare (p : List Byte) (s : State) : Answer :=
  let id := objIdAt p
  if id = 0 then (s, .badValue, [])
  else match classOf (byteAt p 4) with
    | none => (s, .badValue, [])
    | some cls =>
      if (findObject s.slots id).isSome then (s, .objectExists, [])
      else match lowestFree s.slots with
        | none => (s, .tableFull, [])
        | some i => (s.withSlots (s.slots.set i (Slot.entered id cls s.params.quietTime)), .ok, [BitVec.ofNat 8 i.val])

/-- A silent retirement frees the slot; when the object was the head of the dirty list and others remain, the reconciler acts
(R63, R103). -/
def retireSilently (i : SlotNo) (s : State) : State :=
  let s' := freeSlot i s
  if s.dirty.head? = some i ∧ s'.dirty ≠ [] then reconcile s' else s'

/-- RETIRE_OBJECT (R60, R61, R63). The body is the state the slot is left in. -/
def answerRetire (p : List Byte) (s : State) : Answer :=
  let id := objIdAt p
  if id = 0 then (s, .badValue, [])
  else match findObject s.slots id with
    | none => (s, .noObject, [])
    | some i =>
      if (s.slots.get i).phase = .retiring then (s, .objectState, [])
      else if flagBit (byteAt p 4) then (retireSilently i s, .ok, [SlotPhase.free.code])
      else
        let s' := retireObject i .retire s
        (s', .ok, [(s'.slots.get i).phase.code])

/-- READ_OBJECT (R69). -/
def answerReadObject (p : List Byte) (s : State) : Answer :=
  let id := objIdAt p
  if id = 0 then (s, .badValue, [])
  else match findObject s.slots id with
    | none => (s, .noObject, [])
    | some i => (s, .ok, readObjectBody i (s.slots.get i))

/-- The slots that are not FREE from a first slot upward (R70). -/
def occupiedFrom (slots : Table Slot 128) (first : Nat) : List SlotNo :=
  (List.finRange 128).filter fun i => first ≤ i.val && (slots.get i).phase != .free

/-- The next slot of a LIST_OBJECTS reply: the slot after the last entry when 16 entries leave more above, else "end" (R70). -/
def nextSlot (found : List SlotNo) : Byte :=
  match (found.drop 16), (found.take 16).getLast? with
  | _ :: _, some i => BitVec.ofNat 8 (i.val + 1)
  | _, _ => 0xFF

/-- The LIST_OBJECTS body (R70, section 9.5). -/
def listObjectsBody (slots : Table Slot 128) (first : Nat) : List Byte :=
  let found := occupiedFrom slots first
  let entries := found.take 16
  [nextSlot found, BitVec.ofNat 8 entries.length] ++
    entries.flatMap fun i => [BitVec.ofNat 8 i.val] ++ beBytes 4 (slots.get i).id.toNat ++ [(slots.get i).phase.code]

/-- LIST_OBJECTS (R70). -/
def answerListObjects (p : List Byte) (s : State) : Answer :=
  let first := (byteAt p 0).toNat
  if 127 < first then (s, .badValue, []) else (s, .ok, listObjectsBody s.slots first)

/-- DECLARE_OBJECT decoded. -/
def requestDeclareObject (tag : Byte) (p : List Byte) (s : State) : State :=
  immediate 0x14 tag (p.length == 5) (answerDeclare p) s

/-- RETIRE_OBJECT decoded. -/
def requestRetireObject (tag : Byte) (p : List Byte) (s : State) : State :=
  immediate 0x16 tag (p.length == 5) (answerRetire p) s

/-- READ_OBJECT decoded. -/
def requestReadObject (tag : Byte) (p : List Byte) (s : State) : State :=
  immediate 0x17 tag (p.length == 4) (answerReadObject p) s

/-- LIST_OBJECTS decoded. -/
def requestListObjects (tag : Byte) (p : List Byte) (s : State) : State :=
  immediate 0x18 tag (p.length == 1) (answerListObjects p) s

end Sys2Proof.Machine
end

