-- ==== Sys2Proof/Machine/Parameters.lean ====
section
/-! DEFINITION. The requests of the parameter store: SET_PARAM, GET_PARAM, STATUS, PING and RESTART (chapter 10, R152). -/

namespace Sys2Proof.Machine

/-- PING (R152). -/
def answerPing (p : List Byte) (s : State) : Answer :=
  (s, .ok, p)

/-- SET_PARAM (R174). -/
def answerSetParam (p : List Byte) (s : State) : Answer :=
  match s.params.set (byteAt p 0) (field p 1 4) with
  | some q => (s.withParams q, .ok, [])
  | none => (s, .badValue, [])

/-- GET_PARAM (R175). -/
def answerGetParam (p : List Byte) (s : State) : Answer :=
  match s.params.value (byteAt p 0) with
  | some v => (s, .ok, byteAt p 0 :: beBytes 4 v)
  | none => (s, .badValue, [])

/-- The number of slots in a state (R71). -/
def slotsIn (slots : Table Slot 128) (ph : SlotPhase) : Nat :=
  ((List.finRange 128).filter fun i => (slots.get i).phase == ph).length

/-- The number of draft entries not in INHERIT (R46). -/
def draftedCount (zs : ZoneStore) : Nat :=
  ((List.finRange 64).filter fun z => zs.draft.get z != .inherit).length

/-- Some draft entry is DEFINED_OPEN (R46). -/
def someOpen (zs : ZoneStore) : Bool :=
  (List.finRange 64).any fun z => (zs.draft.get z).isOpen

/-- The evaluator state code (R75, section 9.7). -/
def Evaluator.code (ev : Evaluator) : Byte :=
  match ev.context with
  | none => 0
  | some c => match c.job with
    | .hostFix _ _ => 1
    | .query _ _ => 2
    | .feedFix _ _ => 3

/-- The 24-byte STATUS body (R176, section 9.6). -/
def statusBody (s : State) : List Byte :=
  beBytes 2 s.zs.generation.toNat ++
  [BitVec.ofNat 8 (draftedCount s.zs), boolByte (someOpen s.zs)] ++
  beBytes 2 s.zs.freeList.length ++ beBytes 2 s.zs.retiring.length ++
  [BitVec.ofNat 8 (slotsIn s.slots .tracked), BitVec.ofNat 8 (slotsIn s.slots .quiet),
   BitVec.ofNat 8 (slotsIn s.slots .retiring), BitVec.ofNat 8 s.dirty.length,
   BitVec.ofNat 8 s.eq.waiting.length, BitVec.ofNat 8 s.eq.held.length,
   BitVec.ofNat 8 s.flr.queue.length, s.ev.code,
   ((0 : BitVec 4) ++ BitVec.ofBool s.attn ++ BitVec.ofBool s.eq.armed ++ BitVec.ofBool s.hlc.hhold ++
     BitVec.ofBool s.flr.fhold : BitVec 8),
   s.eq.mask] ++
  beBytes 2 s.hlc.discarded.toNat ++ beBytes 2 s.flr.framesDiscarded.toNat ++ beBytes 2 s.flr.fixesDiscarded.toNat

/-- The three discard counters are zeroed (R177). -/
def clearCounters (s : State) : State :=
  (s.withHlc { s.hlc with discarded := 0 }).withFlr { s.flr with framesDiscarded := 0, fixesDiscarded := 0 }

/-- STATUS (R176, R177). -/
def answerStatus (p : List Byte) (s : State) : Answer :=
  (if flagBit (byteAt p 0) then clearCounters s else s, .ok, statusBody s)

/-- PING decoded (R152, R169). -/
def requestPing (tag : Byte) (p : List Byte) (s : State) : State :=
  immediate 0x01 tag (p.length ≤ 32) (answerPing p) s

/-- STATUS decoded. -/
def requestStatus (tag : Byte) (p : List Byte) (s : State) : State :=
  immediate 0x02 tag (p.length == 1) (answerStatus p) s

/-- SET_PARAM decoded. -/
def requestSetParam (tag : Byte) (p : List Byte) (s : State) : State :=
  immediate 0x04 tag (p.length == 5) (answerSetParam p) s

/-- GET_PARAM decoded. -/
def requestGetParam (tag : Byte) (p : List Byte) (s : State) : State :=
  immediate 0x05 tag (p.length == 1) (answerGetParam p) s

/-! ### RESTART -/

/-- An occupied deferred slot is answered ABORTED (R179, step 1). -/
def abortSlot (d : DeferredSlot) (tag? : Option Byte) (s : State) : State :=
  match tag? with
  | none => s
  | some tag => formReply d.type tag .aborted [] s

/-- The replies a RESTART places in the queue: its own and one for each occupied deferred slot (R178). -/
def restartReplies (h : HostLink) : Nat :=
  1 + h.fixSlot.occupied.toNat + h.querySlot.occupied.toNat

/-- The restart values of the Host Link Controller: those of R153, but the replies and the rate are kept, and HHOLD is settled
from deasserted (R154). -/
def HostLink.restart (h : HostLink) : HostLink :=
  HostLink.settle
    { framer := .hunt
      fixSlot := .empty
      querySlot := .empty
      heldOrder := []
      replies := h.replies
      fresh := true
      dropped := false
      hhold := false
      discarded := 0
      rate := h.rate }

/-- The restart values of the Feed Link Receiver: those of R167, but the rate is kept. -/
def FeedLink.restart (f : FeedLink) : FeedLink :=
  { FeedLink.reset false with rate := f.rate }

/-- Every block takes its restart values (R179, steps 2 and 3). Part time goes on. -/
def restartBlocks (s : State) : State where
  pending := s.pending
  resetn := s.resetn
  partTime := s.partTime
  paceIndex := s.paceIndex
  zs := ZoneStore.reset
  slots := Table.fill 128 Slot.empty
  ev := Evaluator.reset
  dirty := []
  eq := EventQueue.reset
  hlc := s.hlc.restart
  flr := s.flr.restart
  params := Params.reset

/-- An executed RESTART (R179). -/
def applyRestart (tag : Byte) (s : State) : State :=
  let s1 := abortSlot .fix s.hlc.fixSlot.tag? s
  let s2 := abortSlot .query s.hlc.querySlot.tag? s1
  formReply 0x03 tag .ok [] (restartBlocks s2)

/-- RESTART decoded: BAD_LENGTH and its discard like any request; otherwise it needs an entry for each reply it places (R178, R179). -/
def requestRestart (tag : Byte) (p : List Byte) (s : State) : State :=
  if p.length ≠ 0 then immediate 0x03 tag false (answerPing p) s
  else if s.hlc.freeEntries < restartReplies s.hlc then dropRequest s
  else applyRestart tag s

end Sys2Proof.Machine
end

