-- ==== Sys2Proof/Machine/HostRequests.lean ====
section
/-! DEFINITION. The receive side of the host link: decode of a well-formed frame, bytes on HRX, and the command of every host request
(R136 to R139, R151). -/

namespace Sys2Proof.Machine

/-- A frame whose TYPE names no request (R139, step 1). -/
def requestUnknown (type tag : Byte) (s : State) : State :=
  immediate type tag true (fun s => (s, .unknownType, [])) s

/-- The decode of a well-formed frame (R139). -/
def decodeRequest (type tag : Byte) (p : List Byte) (s : State) : State :=
  match type.toNat with
  | 0x01 => requestPing tag p s
  | 0x02 => requestStatus tag p s
  | 0x03 => requestRestart tag p s
  | 0x04 => requestSetParam tag p s
  | 0x05 => requestGetParam tag p s
  | 0x08 => requestDefineZone tag p s
  | 0x09 => requestAmendZone tag p s
  | 0x0A => requestAddVertices tag p s
  | 0x0B => requestCloseZone tag p s
  | 0x0C => requestDeleteZone tag p s
  | 0x0D => requestDiscardDraft tag p s
  | 0x0E => requestCommit tag p s
  | 0x0F => requestReadZone tag p s
  | 0x10 => requestReadVertices tag p s
  | 0x14 => requestDeclareObject tag p s
  | 0x15 => requestPostFix tag p s
  | 0x16 => requestRetireObject tag p s
  | 0x17 => requestReadObject tag p s
  | 0x18 => requestListObjects tag p s
  | 0x1A => requestTakeEvent tag p s
  | 0x1B => requestReleaseEvent tag p s
  | 0x1C => requestArmAttn tag p s
  | 0x1E => requestQueryPoint tag p s
  | _ => requestUnknown type tag s

/-- The host receiver with a new framer. -/
def State.withHostFramer (s : State) (f : Framer) : State :=
  s.withHlc { s.hlc with framer := f }

/-- What the check of a host frame finds is acted on: the request is decoded, or the CRC failure is counted (R138, R139). -/
def hostItem (s : State) : LinkItem → State
  | .frame type tag p => decodeRequest type tag p s
  | .crcFail => s.withHlc { s.hlc with discarded := satInc s.hlc.discarded }

/-- Bytes on HRX, one after another with no pause of 10 ms among them (R136, R138). What they complete is acted on with the receiver in
HUNT, in which each check leaves it. -/
def hostBytes (bs : List Byte) (s : State) : State :=
  let r := s.hlc.framer.receive bs
  (r.2.foldl hostItem (s.withHostFramer .hunt)).withHostFramer r.1

/-- A frame of this TYPE, TAG and payload can be sent: LEN fits its byte (R134). -/
def sendable (p : List Byte) : Bool :=
  p.length ≤ 246

/-- A host frame completes on HRX. When the receiver expects it (HUNT, or the bytes stored so far begin it), its remaining bytes arrive,
its check succeeds and it is decoded by `request`. Otherwise another frame is in reception, and the whole frame's bytes are taken by the
receiver as they come (R136 to R139, log entry 6). -/
def hostFrame (type tag : Byte) (p : List Byte) (request : State → State) (s : State) : State :=
  if sendable p && s.hlc.framer.expects (frameTail type tag p) then request (s.withHostFramer .hunt)
  else hostBytes (frameBytes type tag p) s

/-- The command of a host frame (R181: nothing is received while RESETn is low). -/
def hostCommand (type tag : Byte) (p : List Byte) (request : State → State) (s : State) :
    Host.Outcome State Fault Refusal :=
  .next (whenRunning (hostFrame type tag p request) s)

/-- PING (R152). -/
def execPing (tag : Byte) (p : List Byte) (s : State) : Host.Outcome State Fault Refusal :=
  hostCommand 0x01 tag p (requestPing tag p) s

/-- STATUS (R176, R177). -/
def execStatus (tag : Byte) (p : List Byte) (s : State) : Host.Outcome State Fault Refusal :=
  hostCommand 0x02 tag p (requestStatus tag p) s

/-- RESTART (R178, R179). -/
def execRestart (tag : Byte) (p : List Byte) (s : State) : Host.Outcome State Fault Refusal :=
  hostCommand 0x03 tag p (requestRestart tag p) s

/-- SET_PARAM (R174). -/
def execSetParam (tag : Byte) (p : List Byte) (s : State) : Host.Outcome State Fault Refusal :=
  hostCommand 0x04 tag p (requestSetParam tag p) s

/-- GET_PARAM (R175). -/
def execGetParam (tag : Byte) (p : List Byte) (s : State) : Host.Outcome State Fault Refusal :=
  hostCommand 0x05 tag p (requestGetParam tag p) s

/-- DEFINE_ZONE (R28, R29). -/
def execDefineZone (tag : Byte) (p : List Byte) (s : State) : Host.Outcome State Fault Refusal :=
  hostCommand 0x08 tag p (requestDefineZone tag p) s

/-- AMEND_ZONE (R33). -/
def execAmendZone (tag : Byte) (p : List Byte) (s : State) : Host.Outcome State Fault Refusal :=
  hostCommand 0x09 tag p (requestAmendZone tag p) s

/-- ADD_VERTICES (R30, R31). -/
def execAddVertices (tag : Byte) (p : List Byte) (s : State) : Host.Outcome State Fault Refusal :=
  hostCommand 0x0A tag p (requestAddVertices tag p) s

/-- CLOSE_ZONE (R32). -/
def execCloseZone (tag : Byte) (p : List Byte) (s : State) : Host.Outcome State Fault Refusal :=
  hostCommand 0x0B tag p (requestCloseZone tag p) s

/-- DELETE_ZONE (R34). -/
def execDeleteZone (tag : Byte) (p : List Byte) (s : State) : Host.Outcome State Fault Refusal :=
  hostCommand 0x0C tag p (requestDeleteZone tag p) s

/-- DISCARD_DRAFT (R35). -/
def execDiscardDraft (tag : Byte) (p : List Byte) (s : State) : Host.Outcome State Fault Refusal :=
  hostCommand 0x0D tag p (requestDiscardDraft tag p) s

/-- COMMIT (R36). -/
def execCommit (tag : Byte) (p : List Byte) (s : State) : Host.Outcome State Fault Refusal :=
  hostCommand 0x0E tag p (requestCommit tag p) s

/-- READ_ZONE (R41, R42). -/
def execReadZone (tag : Byte) (p : List Byte) (s : State) : Host.Outcome State Fault Refusal :=
  hostCommand 0x0F tag p (requestReadZone tag p) s

/-- READ_VERTICES (R43). -/
def execReadVertices (tag : Byte) (p : List Byte) (s : State) : Host.Outcome State Fault Refusal :=
  hostCommand 0x10 tag p (requestReadVertices tag p) s

/-- DECLARE_OBJECT (R54). -/
def execDeclareObject (tag : Byte) (p : List Byte) (s : State) : Host.Outcome State Fault Refusal :=
  hostCommand 0x14 tag p (requestDeclareObject tag p) s

/-- POST_FIX (R144, R145). -/
def execPostFix (tag : Byte) (p : List Byte) (s : State) : Host.Outcome State Fault Refusal :=
  hostCommand 0x15 tag p (requestPostFix tag p) s

/-- RETIRE_OBJECT (R60, R61, R63). -/
def execRetireObject (tag : Byte) (p : List Byte) (s : State) : Host.Outcome State Fault Refusal :=
  hostCommand 0x16 tag p (requestRetireObject tag p) s

/-- READ_OBJECT (R69). -/
def execReadObject (tag : Byte) (p : List Byte) (s : State) : Host.Outcome State Fault Refusal :=
  hostCommand 0x17 tag p (requestReadObject tag p) s

/-- LIST_OBJECTS (R70). -/
def execListObjects (tag : Byte) (p : List Byte) (s : State) : Host.Outcome State Fault Refusal :=
  hostCommand 0x18 tag p (requestListObjects tag p) s

/-- TAKE_EVENT (R118). -/
def execTakeEvent (tag : Byte) (p : List Byte) (s : State) : Host.Outcome State Fault Refusal :=
  hostCommand 0x1A tag p (requestTakeEvent tag p) s

/-- RELEASE_EVENT (R119). -/
def execReleaseEvent (tag : Byte) (p : List Byte) (s : State) : Host.Outcome State Fault Refusal :=
  hostCommand 0x1B tag p (requestReleaseEvent tag p) s

/-- ARM_ATTN (R128). -/
def execArmAttn (tag : Byte) (p : List Byte) (s : State) : Host.Outcome State Fault Refusal :=
  hostCommand 0x1C tag p (requestArmAttn tag p) s

/-- QUERY_POINT (R144, R145). -/
def execQueryPoint (tag : Byte) (p : List Byte) (s : State) : Host.Outcome State Fault Refusal :=
  hostCommand 0x1E tag p (requestQueryPoint tag p) s

/-- UNKNOWN_TYPE (R139, step 1). A TYPE that does name a request is decoded as that request. -/
def execUnknownType (type tag : Byte) (p : List Byte) (s : State) : Host.Outcome State Fault Refusal :=
  hostCommand type tag p (decodeRequest type tag p) s

end Sys2Proof.Machine
end

