-- ==== Sys2Proof/Machine/HostLine.lean ====
section
/-! DEFINITION. The other events of the host link: a start byte, a bad LEN, a CRC failure, the gap timer, a framing fault, and the
departure of a reply (R136 to R138, R147, R149). -/

namespace Sys2Proof.Machine

/-- HOST_FRAME_START: the byte 0A5H arrives on HRX; in HUNT it opens a frame (R136), elsewhere it is data (R134). -/
def execHostFrameStart (s : State) : Host.Outcome State Fault Refusal :=
  .next (whenRunning (hostBytes [startByte]) s)

/-- HOST_BAD_LEN: the byte arrives on HRX; in LENGTH a value of 0, 1 or 249..255 ends the frame (R136). -/
def execHostBadLen (len : Byte) (s : State) : Host.Outcome State Fault Refusal :=
  .next (whenRunning (hostBytes [len]) s)

/-- HOST_FRAME_CRC_FAIL: the bytes of the frame that are still to come arrive on HRX; its check fails, it is counted, and its stored bytes
are examined again (R138). -/
def execHostFrameCrcFail (bytes : List Byte) (s : State) : Host.Outcome State Fault Refusal :=
  .next (whenRunning (fun s => hostBytes (s.hlc.framer.remaining bytes) s) s)

/-- The frame in reception is abandoned and nothing is counted (R137). -/
def abandonHostFrame (s : State) : State :=
  s.withHostFramer .hunt

/-- HOST_GAP_TIMEOUT: the gap timer, once it is due, expires (R1, R137, log entry 2). -/
def execHostGapTimeout (s : State) : Host.Outcome State Fault Refusal :=
  .next (whenRunning (fun s => if s.hlc.framer.gapDue then abandonHostFrame s else s) s)

/-- HOST_FRAMING_FAULT: a character with a low stop bit abandons a frame in reception and is ignored in HUNT (R133, R137). -/
def execHostFramingFault (s : State) : Host.Outcome State Fault Refusal :=
  .next (whenRunning abandonHostFrame s)

/-- The head's entry is freed; HHOLD is settled, a held reply takes the entry, and the next reply begins (R147, R149, R150). -/
def replyDeparts (s : State) : State :=
  match s.hlc.replies with
  | [] => s
  | _ :: rest => releaseHeldReply (s.withHlc (HostLink.settle { s.hlc with replies := rest }))

/-- REPLY_SENT (R149); with no reply in transmission nothing leaves (log entry 4). -/
def execReplySent (s : State) : Host.Outcome State Fault Refusal :=
  .next (whenRunning replyDeparts s)

end Sys2Proof.Machine
end

