-- ==== Sys2Proof/Machine/Timers.lean ====
section
/-! DEFINITION. The timers: quiet, retire and redelivery expiries (R56, R59, R121), and what the part does by itself when no command waits
(R1, R73, R82, log entries 1, 3 and 11). -/

namespace Sys2Proof.Machine

/-- The zones with quiet policy DROP (R56). -/
def dropZones (active : Table ActiveRec 64) : ZoneSet :=
  zonesWhere fun z => match active.get z with
    | .live _ a _ => a.quiet == .drop
    | .absent _ _ => false

/-- The slot after a quiet expiry (R56). -/
def quietSlot (active : Table ActiveRec 64) (retireTime : Nat) (sl : Slot) : Slot :=
  { sl with
    phase := .quiet
    inside := sl.inside &&& ~~~dropZones active
    run := clearRuns (dropZones active) sl.run
    quietTimer := .stopped
    retireTimer := Timer.start retireTime }

/-- The group of a quiet expiry (R56). -/
def quietGroup (active : Table ActiveRec 64) (sl : Slot) : List Notice :=
  exits (sl.inside &&& dropZones active) .quiet ++ [.quiet .quiet]

/-- The quiet timer of a TRACKED object expires (R56). -/
def becomeQuiet (i : SlotNo) (s : State) : State :=
  let sl := s.slots.get i
  freshGroup i (quietGroup s.zs.active sl)
    (s.withSlots (s.slots.set i (quietSlot s.zs.active s.params.retireTime sl)))

/-- A quiet expiry may be taken for the slot (R55, R56, R1). -/
def quietDue (sl : Slot) : Bool :=
  sl.phase == .tracked && sl.quietTimer.due

/-- A retire expiry may be taken for the slot (R58, R59, R1). -/
def retireDue (sl : Slot) : Bool :=
  sl.phase == .quiet && sl.retireTimer.due

/-- The event of this seq is held and its redelivery timer is due (R120, R121, R1). -/
def redeliveryDue (q : EventQueue) (seq : BitVec 16) : Option Held :=
  q.held.find? fun h => h.event.seq == seq && h.timer.due

/-- QUIET_EXPIRY (R56). A timer that is stopped or not yet due does not expire (log entry 2). -/
def execQuietExpiry (slot : SlotNo) (s : State) : Host.Outcome State Fault Refusal :=
  .next (whenRunning (fun s => if quietDue (s.slots.get slot) then becomeQuiet slot s else s) s)

/-- RETIRE_EXPIRY (R59). A timer that is stopped or not yet due does not expire (log entry 2). -/
def execRetireExpiry (slot : SlotNo) (s : State) : Host.Outcome State Fault Refusal :=
  .next (whenRunning (fun s => if retireDue (s.slots.get slot) then retireObject slot .quiet s else s) s)

/-- REDELIVERY_EXPIRY (R121). A timer that is stopped or not yet due does not expire (log entry 2). -/
def execRedeliveryExpiry (seq : BitVec 16) (s : State) : Host.Outcome State Fault Refusal :=
  .next (whenRunning (fun s => match redeliveryDue s.eq seq with
    | some h => redeliver h s
    | none => s) s)

/-! ### A millisecond of part time -/

/-- Every running timer of a slot counts a millisecond. -/
def Slot.tick (sl : Slot) : Slot :=
  { sl with quietTimer := sl.quietTimer.tick, retireTimer := sl.retireTimer.tick }

/-- Part time and every running timer count a millisecond (R1). -/
def countMillisecond (s : State) : State :=
  { s with
    partTime := s.partTime + 1
    slots := s.slots.map Slot.tick
    eq := { s.eq with held := s.eq.held.map fun h => { h with timer := h.timer.tick } }
    hlc := { s.hlc with framer := s.hlc.framer.tick }
    flr := { s.flr with framer := s.flr.framer.tick } }

/-- The timer of a slot that stands at its latest moment expires (R1). -/
def expireSlot (s : State) (i : SlotNo) : State :=
  let sl := s.slots.get i
  if sl.phase == .tracked && sl.quietTimer.overdue then becomeQuiet i s
  else if sl.phase == .quiet && sl.retireTimer.overdue then retireObject i .quiet s
  else s

/-- A held event whose timer stands at its latest moment is redelivered (R1, R121). -/
def expireHeld (s : State) (h : Held) : State :=
  if h.timer.overdue then redeliver h s else s

/-- A gap timer at its latest moment expires (R1, R137, R158). -/
def expireGaps (s : State) : State :=
  let s := if s.hlc.framer.gapOverdue then abandonHostFrame s else s
  if s.flr.framer.gapOverdue then abandonFeedFrame s else s

/-- The timers at their latest moment expire: slots in ascending number, held events oldest take first, then the gap timers (log entry 1). -/
def expireOverdue (s : State) : State :=
  let s := (List.finRange 128).foldl expireSlot s
  expireGaps (s.eq.held.foldl expireHeld s)

/-- The walk of an evaluation goes on by the free pace (R80, log entry 3). -/
def walkOn (s : State) : State :=
  match s.ev.context with
  | none => s
  | some c =>
    (s.withEv { s.ev with context := some (walkZones s.zs (Config.walkPace s.paceIndex) c) }).withPaceIndex (s.paceIndex + 1)

/-- A millisecond of part time (R1). -/
def millisecond (s : State) : State :=
  walkOn (expireOverdue (countMillisecond s))

/-- What the part does with no command waiting: an outstanding grant is made, an evaluation whose walk has passed zone 63 completes,
and otherwise a millisecond of part time passes (R73, R82, R88, log entries 1 and 11). -/
def runOn (s : State) : State :=
  match s.ev.context with
  | none => if (arbiterChoice s).isSome then arbitrate s else millisecond s
  | some c =>
    if c.walk < 64 then millisecond s
    else match c.job with
      | .query _ _ => completeQuery s
      | _ => completeFix s

/-- The idle step of the running part. -/
def idle (s : State) : State :=
  whenRunning runOn s

end Sys2Proof.Machine
end

