-- ==== Sys2Proof/Machine/Dispatch.lean ====
section
/-! DEFINITION. One arm for each command, each a call of its meaning. -/

namespace Sys2Proof.Machine

def exec (i : Instr) (s : State) : Host.Outcome State Fault Refusal :=
  match i with
  | .pinReset hrate frate => Sys2Proof.Machine.execPinReset hrate frate s
  | .ping tag p => Sys2Proof.Machine.execPing tag p s
  | .status tag p => Sys2Proof.Machine.execStatus tag p s
  | .restart tag p => Sys2Proof.Machine.execRestart tag p s
  | .setParam tag p => Sys2Proof.Machine.execSetParam tag p s
  | .getParam tag p => Sys2Proof.Machine.execGetParam tag p s
  | .defineZone tag p => Sys2Proof.Machine.execDefineZone tag p s
  | .amendZone tag p => Sys2Proof.Machine.execAmendZone tag p s
  | .addVertices tag p => Sys2Proof.Machine.execAddVertices tag p s
  | .closeZone tag p => Sys2Proof.Machine.execCloseZone tag p s
  | .deleteZone tag p => Sys2Proof.Machine.execDeleteZone tag p s
  | .discardDraft tag p => Sys2Proof.Machine.execDiscardDraft tag p s
  | .commit tag p => Sys2Proof.Machine.execCommit tag p s
  | .readZone tag p => Sys2Proof.Machine.execReadZone tag p s
  | .readVertices tag p => Sys2Proof.Machine.execReadVertices tag p s
  | .declareObject tag p => Sys2Proof.Machine.execDeclareObject tag p s
  | .retireObject tag p => Sys2Proof.Machine.execRetireObject tag p s
  | .readObject tag p => Sys2Proof.Machine.execReadObject tag p s
  | .listObjects tag p => Sys2Proof.Machine.execListObjects tag p s
  | .postFix tag p => Sys2Proof.Machine.execPostFix tag p s
  | .queryPoint tag p => Sys2Proof.Machine.execQueryPoint tag p s
  | .takeEvent tag p => Sys2Proof.Machine.execTakeEvent tag p s
  | .releaseEvent tag p => Sys2Proof.Machine.execReleaseEvent tag p s
  | .armAttn tag p => Sys2Proof.Machine.execArmAttn tag p s
  | .unknownType type tag p => Sys2Proof.Machine.execUnknownType type tag p s
  | .hostFrameCrcFail bytes => Sys2Proof.Machine.execHostFrameCrcFail bytes s
  | .hostGapTimeout => Sys2Proof.Machine.execHostGapTimeout s
  | .hostFramingFault => Sys2Proof.Machine.execHostFramingFault s
  | .replySent => Sys2Proof.Machine.execReplySent s
  | .fixBatch tag fixes => Sys2Proof.Machine.execFixBatch tag fixes s
  | .feedFrameDiscard type tag p => Sys2Proof.Machine.execFeedFrameDiscard type tag p s
  | .feedFrameCrcFail bytes => Sys2Proof.Machine.execFeedFrameCrcFail bytes s
  | .feedGapTimeout => Sys2Proof.Machine.execFeedGapTimeout s
  | .feedFramingFault => Sys2Proof.Machine.execFeedFramingFault s
  | .arbiterGrant => Sys2Proof.Machine.execArbiterGrant s
  | .fixCompletion => Sys2Proof.Machine.execFixCompletion s
  | .queryCompletion => Sys2Proof.Machine.execQueryCompletion s
  | .quietExpiry slot => Sys2Proof.Machine.execQuietExpiry slot s
  | .retireExpiry slot => Sys2Proof.Machine.execRetireExpiry slot s
  | .redeliveryExpiry seq => Sys2Proof.Machine.execRedeliveryExpiry seq s
  | .resetnLow => Sys2Proof.Machine.execResetnLow s
  | .hostFrameStart => Sys2Proof.Machine.execHostFrameStart s
  | .hostBadLen len => Sys2Proof.Machine.execHostBadLen len s
  | .feedFrameStart => Sys2Proof.Machine.execFeedFrameStart s
  | .feedBadLen len => Sys2Proof.Machine.execFeedBadLen len s

end Sys2Proof.Machine
end

