-- ==== Sys2Proof/WellFormed.lean ====
section
/-! DEFINITION. Which commands a row of the table names: the frame fits its LEN byte, and the frame is of the row's kind. -/

namespace Sys2Proof

open Machine

/-- A frame as the receiver stores it: LEN, LEN bytes of body, two CRC bytes, and a CRC that does not hold (R134, R138). -/
def failingFrame (bytes : List Byte) : Bool :=
  goodLen (byteAt bytes 0) && bytes.length == (byteAt bytes 0).toNat + 3 && !crcHolds bytes

/-- The command is one that its row describes. -/
def Instr.wellFormed : Instr → Bool
  | .pinReset _ _ => true
  | .ping _ p => sendable p
  | .status _ p => sendable p
  | .restart _ p => sendable p
  | .setParam _ p => sendable p
  | .getParam _ p => sendable p
  | .defineZone _ p => sendable p
  | .amendZone _ p => sendable p
  | .addVertices _ p => sendable p
  | .closeZone _ p => sendable p
  | .deleteZone _ p => sendable p
  | .discardDraft _ p => sendable p
  | .commit _ p => sendable p
  | .readZone _ p => sendable p
  | .readVertices _ p => sendable p
  | .declareObject _ p => sendable p
  | .retireObject _ p => sendable p
  | .readObject _ p => sendable p
  | .listObjects _ p => sendable p
  | .postFix _ p => sendable p
  | .queryPoint _ p => sendable p
  | .takeEvent _ p => sendable p
  | .releaseEvent _ p => sendable p
  | .armAttn _ p => sendable p
  | .unknownType type _ p => !assignedType type && sendable p
  | .hostFrameCrcFail bytes => failingFrame bytes
  | .hostGapTimeout => true
  | .hostFramingFault => true
  | .replySent => true
  | .fixBatch _ fixes => 1 ≤ fixes.length && fixes.length ≤ 8
  | .feedFrameDiscard type _ p => sendable p && !goodFeedFrame type p
  | .feedFrameCrcFail bytes => failingFrame bytes
  | .feedGapTimeout => true
  | .feedFramingFault => true
  | .arbiterGrant => true
  | .fixCompletion => true
  | .queryCompletion => true
  | .quietExpiry _ => true
  | .retireExpiry _ => true
  | .redeliveryExpiry _ => true
  | .resetnLow => true
  | .hostFrameStart => true
  | .hostBadLen len => !goodLen len
  | .feedFrameStart => true
  | .feedBadLen len => !goodLen len

end Sys2Proof
end

