-- ==== Sys2Proof/Safety.lean ====
section
/-! DEFINITION. What a safe run of the ZM2416 keeps, and the words the statements are written in. -/

namespace Sys2Proof.Machine

/-! ### Zone Store -/

/-- The chains of the LIVE polygons, in ascending zone id (R23). -/
def ZoneStore.activeChains (zs : ZoneStore) : List BlockNo :=
  (List.finRange 64).flatMap fun z => (zs.active.get z).chain

/-- The four places of a vertex block, one after another (R23). -/
def ZoneStore.places (zs : ZoneStore) : List BlockNo :=
  zs.freeList ++ zs.activeChains ++ zs.draftChains ++ zs.retiring

/-- Each of the 512 blocks is in exactly one of the four places, and the retiring list is empty while the Evaluator is idle (R23, R25). -/
def BlocksAccounted (s : State) : Prop :=
  s.zs.places.Perm (List.finRange 512) ∧ (s.ev.context = none → s.zs.retiring = [])

/-- A complete geometry as R18 and R13 give it: a box that holds a point, or 3..512 vertices with an extent on both axes in a chain of
ceil(n/8) blocks, with their bounding box (R5, R18, R23, R32). -/
def Geometry.legal (pool : Table Block 512) : Geometry → Prop
  | .box b => b.xmin < b.xmax ∧ b.ymin < b.ymax
  | .polygon _ n chain bounds =>
    3 ≤ n ∧ n ≤ 512 ∧ chain.length = blocksFor n ∧ flat (verticesOf pool chain n) = false ∧
      bounds = boundingBox (verticesOf pool chain n)

/-- A LIVE record has a complete geometry and legal attributes (R18, R27). -/
def ActiveRec.legal (pool : Table Block 512) : ActiveRec → Prop
  | .absent _ _ => True
  | .live g a _ => g.legal pool ∧ a.legal = true

/-- A draft entry holds what its state allows beside the active record (R21, R27, R30). -/
def DraftEntry.legal (pool : Table Block 512) (r : ActiveRec) : DraftEntry → Prop
  | .inherit => True
  | .opened _ a n chain => a.legal = true ∧ n ≤ 512 ∧ chain.length = blocksFor n
  | .closed g a => g.legal pool ∧ a.legal = true
  | .amended a => a.legal = true ∧ r.isLive = true
  | .deleted => r.isLive = true

/-- The blocks are accounted for, and every record and draft entry is legal (R18, R21, R23, R25). -/
def StoreSound (s : State) : Prop :=
  BlocksAccounted s ∧
  ∀ z, (s.zs.active.get z).legal s.zs.pool ∧ (s.zs.draft.get z).legal s.zs.pool (s.zs.active.get z)

/-! ### Evaluator -/

/-- The raw-result list of an evaluation in flight agrees with the plan as it stands: a place the walk has passed, of a zone no commit has
changed, holds what the test of the zone's present record gives; a place still to come is unset (R80, R81). -/
def Context.sound (zs : ZoneStore) (c : Context) : Prop :=
  c.walk ≤ 64 ∧
  ∀ z : ZoneId,
    (z.val < c.walk → inSet c.void z = false → c.raw.get z = rawCell zs c z) ∧
    (c.walk ≤ z.val → c.raw.get z = .unset)

/-- The blocks are accounted for, and an evaluation in flight agrees with the plan (R81). -/
def WalkSound (s : State) : Prop :=
  BlocksAccounted s ∧ ∀ c, s.ev.context = some c → c.sound s.zs

/-! ### Object Table -/

/-- A run counter and an inside bit obey the zone's active record (R51). -/
def countObeys (inside : Bool) (run : Nat) : ActiveRec → Prop
  | .absent _ _ => run = 0 ∧ inside = false
  | .live _ a _ => run ≤ 14 ∧ run < (if inside then a.exitCount.toNat else a.enterCount.toNat)

/-- The attributes an entry would bring to a commit. -/
def DraftEntry.attrs? : DraftEntry → Option Attrs
  | .inherit => none
  | .opened _ a _ _ => some a
  | .closed _ a => some a
  | .amended a => some a
  | .deleted => none

/-- R51 for every object and zone, with what keeps it: no count of an active or drafted zone is 0 (R27), and a RETIRING object is in no
zone (R62). -/
def CountersObey (s : State) : Prop :=
  (∀ z g a st, s.zs.active.get z = .live g a st → a.legal = true) ∧
  (∀ z a, (s.zs.draft.get z).attrs? = some a → a.legal = true) ∧
  ∀ i, (s.slots.get i).phase ≠ .free →
    ((s.slots.get i).phase = .retiring → (s.slots.get i).inside = 0) ∧
    ∀ z, countObeys (inSet (s.slots.get i).inside z) ((s.slots.get i).run.get z) (s.zs.active.get z)

/-- A timer that runs has not passed its length (R1). -/
def Timer.within : Timer → Prop
  | .stopped => True
  | .running length elapsed => elapsed ≤ length

/-- A slot on its own: a FREE slot holds nothing; the timers run only in their states and within their lengths; a RETIRING object is in no
zone and has a retire cause (R47, R49, R53, R55, R58, R62). -/
def Slot.sound (sl : Slot) : Prop :=
  (sl.phase = .free → sl = Slot.empty) ∧
  (sl.phase ≠ .free → sl.id ≠ 0) ∧
  (sl.quietTimer ≠ .stopped → sl.phase = .tracked) ∧
  (sl.retireTimer ≠ .stopped → sl.phase = .quiet) ∧
  sl.quietTimer.within ∧ sl.retireTimer.within ∧
  (sl.phase = .retiring → sl.dirty = true ∧ sl.inside = 0 ∧ sl.cause ≠ .none) ∧
  (sl.phase ≠ .retiring → sl.cause = .none)

/-- The told record equals the truth (R99). -/
def Slot.toldTruth (sl : Slot) : Prop :=
  (sl.phase = .tracked ∧ sl.toldQuiet = false ∨ sl.phase = .quiet ∧ sl.toldQuiet = true) ∧ sl.toldSet = sl.inside

/-- Every slot is sound; no two hold the same id (R47); the dirty list holds exactly the dirty objects, each once (R100); a clean object
has been told the truth (R99); and no fix waits with an id of 0 (R72). -/
def ObjectsSound (s : State) : Prop :=
  (∀ i, (s.slots.get i).sound) ∧
  (∀ i j, (s.slots.get i).phase ≠ .free → (s.slots.get j).phase ≠ .free →
    (s.slots.get i).id = (s.slots.get j).id → i = j) ∧
  s.dirty.Nodup ∧
  (∀ i, i ∈ s.dirty ↔ (s.slots.get i).dirty = true) ∧
  (∀ i, (s.slots.get i).phase ≠ .free → (s.slots.get i).dirty = false → (s.slots.get i).toldTruth) ∧
  (∀ f ∈ s.flr.queue, f.id ≠ 0) ∧
  (∀ tag f, s.hlc.fixSlot = .waiting tag f → f.id ≠ 0)

/-! ### Event Queue -/

/-- Every event in the queue: the pending list, then the held list. -/
def EventQueue.queued (q : EventQueue) : List Event :=
  q.waiting ++ q.held.map (·.event)

/-- The Event Queue keeps its bounds, its numbers, its order and its timers (R1, R111, R112, R114 to R117, R120), and each system kind its one
pending event and its waiting count (R123, R125). -/
def QueueSound (q : EventQueue) : Prop :=
  q.waiting.length + q.held.length ≤ 96 ∧
  q.held.length ≤ 8 ∧
  (q.queued.map (·.seq)).Nodup ∧
  (q.queued.map (·.arrival)).Nodup ∧
  (∀ e ∈ q.queued, e.arrival < q.nextArrival) ∧
  q.waiting.Pairwise (fun e x => e.before x = true) ∧
  (∀ h ∈ q.held, ∃ length elapsed, h.timer = .running length elapsed ∧ elapsed ≤ length) ∧
  (∀ e ∈ q.queued, e.kind.system? ≠ none → e.kind.reports ≠ 0) ∧
  (∀ k, (q.waiting.filter (Event.isSystem k)).length ≤ 1) ∧
  (∀ k, q.waitingCount k ≠ 0 → q.waiting.any (Event.isSystem k) = false ∧ q.free = 0) ∧
  (q.admitFirstId.isSome = true ↔ q.admitWaiting ≠ 0)

/-- An event carries the parts of its kind and no others (R112, R171). -/
def EventKind.wellMade : EventKind → Prop
  | .enter _ _ c _ f => (c = .fix ∧ f.isSome) ∨ c = .catchup
  | .exit _ _ c _ f => (c = .fix ∧ f.isSome) ∨ c = .catchup ∨ (c ≠ .fix ∧ c ≠ .catchup ∧ f = none)
  | .quiet _ c _ => c = .quiet ∨ c = .catchup
  | .resumed _ c f => (c = .fix ∨ c = .catchup) ∧ f.isSome
  | .retired _ c => c = .retire ∨ c = .quiet
  | .admitRefused _ _ => True
  | .feedOverrun _ => True

/-- Every queued event is well made, and an object whose RESUMED is still owed has a fix to carry (R93, R112). -/
def EventsWellMade (s : State) : Prop :=
  (∀ e ∈ s.eq.queued, e.kind.wellMade) ∧
  (∀ i, (s.slots.get i).phase = .tracked → (s.slots.get i).toldQuiet = true → (s.slots.get i).lastFix.isSome = true)

/-! ### Links and parameters -/

/-- A frame in reception opened with a good LEN, is not yet whole, and its gap timer has not passed 10 ms (R1, R134, R136, R137). -/
def Framer.sound : Framer → Prop
  | .hunt => True
  | .frame [] gap => gap ≤ gapTime
  | .frame (len :: body) gap => goodLen len = true ∧ body.length + 1 < len.toNat + 3 ∧ gap ≤ gapTime

/-- The evaluation in flight is of the host fix slot's request. -/
def Evaluator.ofHostFix (ev : Evaluator) : Bool :=
  match ev.context with
  | some c => match c.job with
    | .hostFix _ _ => true
    | _ => false
  | none => false

/-- The evaluation in flight is of the query slot's request. -/
def Evaluator.ofQuery (ev : Evaluator) : Bool :=
  match ev.context with
  | some c => match c.job with
    | .query _ _ => true
    | _ => false
  | none => false

/-- A parameter value within its range, by the table of R173. -/
def paramAllows (id v : Nat) : Bool :=
  match id with
  | 1 => v ≤ 1
  | 2 => v ≤ 15
  | 3 => v == 0 || (100 ≤ v && v ≤ 600000)
  | 4 => v == 0 || (100 ≤ v && v ≤ 3600000)
  | 5 => 10 ≤ v && v ≤ 60000
  | 6 => v ≤ 7
  | 7 => v ≤ 7
  | _ => false

/-- The host link keeps its reply queue, its deferred slots and HHOLD; the feed link its Fix Queue and FHOLD; both framers are sound; and
every parameter is within its range (R134, R144, R146, R147, R149, R150, R163, R164, R173). -/
def LinksSound (s : State) : Prop :=
  s.hlc.replies.length ≤ 6 ∧
  (∀ d, (s.hlc.heldReply d).isSome = true → s.hlc.replies.length = 6) ∧
  s.hlc.heldOrder.Nodup ∧
  (∀ d, d ∈ s.hlc.heldOrder ↔ (s.hlc.heldReply d).isSome = true) ∧
  ((s.hlc.grantedTag .fix).isSome = s.ev.ofHostFix) ∧
  ((s.hlc.grantedTag .query).isSome = s.ev.ofQuery) ∧
  (∀ tag, s.hlc.fixSlot.tag? = some tag → s.hlc.querySlot.tag? ≠ some tag) ∧
  (s.resetn = true → (s.hlc.freeEntries < 2 → s.hlc.hhold = true) ∧ (4 ≤ s.hlc.freeEntries → s.hlc.hhold = false)) ∧
  s.flr.queue.length ≤ 32 ∧
  (s.resetn = true → (28 ≤ s.flr.queue.length → s.flr.fhold = true) ∧ (s.flr.queue.length ≤ 16 → s.flr.fhold = false)) ∧
  s.hlc.framer.sound ∧ s.flr.framer.sound ∧
  (∀ id v, s.params.value id = some v → paramAllows id.toNat v = true)

/-! ### Words for the statements -/

/-- The part runs, and its host receiver takes the frame of this TYPE, TAG and payload whole (R134, R136). -/
abbrev Hears (s : State) (type tag : Byte) (p : List Byte) : Prop :=
  s.resetn = true ∧ p.length ≤ 246 ∧ s.hlc.framer.expects (frameTail type tag p) = true

/-- The part runs, and its feed framer takes the frame whole (R157). -/
abbrev FeedHears (s : State) (type tag : Byte) (p : List Byte) : Prop :=
  s.resetn = true ∧ p.length ≤ 246 ∧ s.flr.framer.expects (frameTail type tag p) = true

/-- The state in which a host frame that was heard is decoded: the receiver is in HUNT (R136). -/
abbrev heard (s : State) : State :=
  s.withHlc { s.hlc with framer := .hunt }

/-- The state in which a feed frame that was heard is checked: the framer is in HUNT (R160). -/
abbrev feedHeard (s : State) : State :=
  s.withFlr { s.flr with framer := .hunt }

/-- A reply entry is free (R149). -/
abbrev HasRoom (s : State) : Prop :=
  s.hlc.replies.length < 6

/-- The TYPE, TAG and payload of a command that is a host frame (section 7.4). -/
def hostFrameOf : Instr → Option (Byte × Byte × List Byte)
  | .ping tag p => some (0x01, tag, p)
  | .status tag p => some (0x02, tag, p)
  | .restart tag p => some (0x03, tag, p)
  | .setParam tag p => some (0x04, tag, p)
  | .getParam tag p => some (0x05, tag, p)
  | .defineZone tag p => some (0x08, tag, p)
  | .amendZone tag p => some (0x09, tag, p)
  | .addVertices tag p => some (0x0A, tag, p)
  | .closeZone tag p => some (0x0B, tag, p)
  | .deleteZone tag p => some (0x0C, tag, p)
  | .discardDraft tag p => some (0x0D, tag, p)
  | .commit tag p => some (0x0E, tag, p)
  | .readZone tag p => some (0x0F, tag, p)
  | .readVertices tag p => some (0x10, tag, p)
  | .declareObject tag p => some (0x14, tag, p)
  | .postFix tag p => some (0x15, tag, p)
  | .retireObject tag p => some (0x16, tag, p)
  | .readObject tag p => some (0x17, tag, p)
  | .listObjects tag p => some (0x18, tag, p)
  | .takeEvent tag p => some (0x1A, tag, p)
  | .releaseEvent tag p => some (0x1B, tag, p)
  | .armAttn tag p => some (0x1C, tag, p)
  | .queryPoint tag p => some (0x1E, tag, p)
  | .unknownType type tag p => some (type, tag, p)
  | _ => none

/-- The TYPE, TAG and payload of a command that is a feed frame whose CRC holds (R160). -/
def feedFrameOf : Instr → Option (Byte × Byte × List Byte)
  | .fixBatch tag fixes => some (0x21, tag, fixBatchPayload fixes)
  | .feedFrameDiscard type tag p => some (type, tag, p)
  | _ => none

/-- The payload lengths allowed for a TYPE, by the table of R169; every length of a TYPE that names no request. -/
def lengthAllowed (type : Byte) (p : List Byte) : Bool :=
  match type.toNat with
  | 0x01 => p.length ≤ 32
  | 0x02 => p.length == 1
  | 0x03 => p.length == 0
  | 0x04 => p.length == 5
  | 0x05 => p.length == 1
  | 0x08 => 2 ≤ p.length &&
      (if byteAt p 1 = 0 then p.length == 17
       else if (byteAt p 1).toNat ≤ 2 then p.length == 5
       else p.length == 5 || p.length == 17)
  | 0x09 => p.length == 4
  | 0x0A => 2 ≤ p.length && p.length == 2 + 6 * (byteAt p 1).toNat
  | 0x0B => p.length == 1
  | 0x0C => p.length == 1
  | 0x0D => p.length == 0
  | 0x0E => p.length == 0
  | 0x0F => p.length == 2
  | 0x10 => p.length == 4
  | 0x14 => p.length == 5
  | 0x15 => p.length == 15
  | 0x16 => p.length == 5
  | 0x17 => p.length == 4
  | 0x18 => p.length == 1
  | 0x1A => p.length == 1
  | 0x1B => p.length == 2
  | 0x1C => p.length == 2
  | 0x1E => p.length == 7
  | _ => true

/-- The places where an object is found: slot `i` is not FREE and holds the id, and no other slot that is not FREE does (R47). -/
def HoldsId (s : State) (i : SlotNo) (id : ObjId) : Prop :=
  (s.slots.get i).phase ≠ .free ∧ (s.slots.get i).id = id ∧
  ∀ j, (s.slots.get j).phase ≠ .free → (s.slots.get j).id = id → j = i

/-- No slot that is not FREE holds the id: it is unknown (R47). -/
def Unknown (s : State) (id : ObjId) : Prop :=
  ∀ j, (s.slots.get j).phase ≠ .free → (s.slots.get j).id ≠ id

/-- Slot `i` is the lowest-numbered FREE slot (R54, R77). -/
def LowestFree (s : State) (i : SlotNo) : Prop :=
  (s.slots.get i).phase = .free ∧ ∀ j, j.val < i.val → (s.slots.get j).phase ≠ .free

/-- The request is discarded for want of a reply entry, and nothing else happens (R151). -/
abbrev dropped (s : State) : State :=
  (heard s).withHlc { (heard s).hlc with dropped := true }

/-- The FLAGS of a reply formed now (R141, R142, section 9.2), with these marks. -/
def flagsWith (s : State) (fresh drop : Bool) : Byte :=
  flagsByte fresh drop (!s.eq.waiting.isEmpty) (!s.dirty.isEmpty)

/-- The ABORTED replies of a RESTART, in their order: the first carries the marks as they stand (R179, step 1). -/
def abortedReplies (s : State) : List Reply :=
  match s.hlc.fixSlot.tag?, s.hlc.querySlot.tag? with
  | none, none => []
  | some a, none => [⟨0x95, a, .aborted, flagsWith s s.hlc.fresh s.hlc.dropped, []⟩]
  | none, some b => [⟨0x9E, b, .aborted, flagsWith s s.hlc.fresh s.hlc.dropped, []⟩]
  | some a, some b =>
    [⟨0x95, a, .aborted, flagsWith s s.hlc.fresh s.hlc.dropped, []⟩, ⟨0x9E, b, .aborted, flagsWith s false false, []⟩]

/-- The number of occupied deferred slots (R178). -/
def occupiedSlots (s : State) : Nat :=
  (if s.hlc.fixSlot.tag?.isSome then 1 else 0) + (if s.hlc.querySlot.tag?.isSome then 1 else 0)

/-- A deferred slot holds this tag (R144, step 3). -/
def TagHeld (s : State) (tag : Byte) : Prop :=
  s.hlc.fixSlot.tag? = some tag ∨ s.hlc.querySlot.tag? = some tag

/-- The blocks that `k` more vertices need beside `n` (R30). -/
def blocksNeeded (n k : Nat) : Nat :=
  (n + k + 7) / 8 - (n + 7) / 8

/-- The entry changes this record in something other than its priority when it is committed (R37). -/
def changes (r : ActiveRec) (e : DraftEntry) : Bool :=
  match e with
  | .closed _ _ => true
  | .deleted => true
  | .amended a => match r with
    | .live _ old _ =>
      decide (a.filter ≠ old.filter ∨ a.enterCount ≠ old.enterCount ∨ a.exitCount ≠ old.exitCount ∨ a.invert ≠ old.invert ∨
        a.quiet ≠ old.quiet)
    | .absent _ _ => false
  | .inherit => false
  | .opened _ _ _ _ => false

/-- The record holds no object of this class: it is ABSENT, or its filter excludes the class (R66). -/
def ActiveRec.holdsNone (r : ActiveRec) (cls : BitVec 3) : Bool :=
  match r with
  | .absent _ _ => true
  | .live _ a _ => !a.filter.getLsbD cls.toNat

/-- The zone leaves the object at a commit from `s` to `t`: it is inside, and the changed record is ABSENT or excludes its class (R66). -/
abbrev Forced (s t : State) (sl : Slot) (z : ZoneId) : Prop :=
  (sl.phase = .tracked ∨ sl.phase = .quiet) ∧ inSet sl.inside z = true ∧
  changes (s.zs.active.get z) (s.zs.draft.get z) = true ∧ (t.zs.active.get z).holdsNone sl.cls = true

/-- An event of this kind and priority stands on the pending list. -/
def Pending (s : State) (kind : EventKind) (priority : BitVec 3) : Prop :=
  ∃ e ∈ s.eq.waiting, e.kind = kind ∧ e.priority = priority ∧ e.redelivered = false

/-- The priority of a LIVE zone (R107). -/
def livePriority (s : State) (z : ZoneId) : BitVec 3 :=
  (s.zs.active.get z).priority

/-- The part with the Evaluator idle and the retiring list freed (R26, R89). -/
abbrev idled (s : State) : State :=
  (s.withEv { s.ev with context := none }).withZs
    { s.zs with freeList := s.zs.freeList ++ s.zs.retiring, retiring := [] }

/-- A feed fix is counted as discarded (R166). -/
abbrev feedFixCounted (s : State) : State :=
  s.withFlr { s.flr with fixesDiscarded := satInc s.flr.fixesDiscarded }

/-- FHOLD at a level of the Fix Queue, from the level it had (R164). -/
def fholdAt (level : Nat) (was : Bool) : Bool :=
  if 28 ≤ level then true else if level ≤ 16 then false else was

/-- HHOLD with this many replies in the queue, from the level it had (R150). -/
def hholdAt (replies : Nat) (was : Bool) : Bool :=
  if 4 < replies then true else if replies ≤ 2 then false else was

/-- A fix of a good frame is received: discarded, dropped for overrun and reported, or appended (R161, R164, R165). -/
def fixReceived (s : State) (f : Fix) : State :=
  if f.id = 0 ∨ f.reserved = true ∨ f.quality.toNat < s.params.minQuality.toNat then feedFixCounted s
  else if 32 ≤ s.flr.queue.length then
    (feedFixCounted s).withEq (s.eq.report .feedOverrun 0 s.params.sysEventPrio)
  else
    s.withFlr { s.flr with queue := s.flr.queue ++ [f], fhold := fholdAt (s.flr.queue.length + 1) s.flr.fhold }


/-- These events join the Event Queue, in this order (R94, R114 to R116). -/
def joined (q : EventQueue) (events : List (EventKind × BitVec 3)) : EventQueue :=
  events.foldl (fun q e => q.join e.1 e.2) q

/-- The zones for which `f` holds, in ascending id. -/
abbrev zonesIn (f : ZoneId → Bool) : List ZoneId :=
  (List.finRange 64).filter f

/-- The reply of a granted POST_FIX as its evaluation ends: in the queue with the slot EMPTY, or held behind any reply held before
(R146, R147). -/
def fixEnds (tag : Byte) (r : Result) (body : List Byte) (s : State) : State :=
  if s.hlc.replies.length < 6 then formReply 0x15 tag r body (s.withHlc { s.hlc with fixSlot := .empty })
  else s.withHlc { s.hlc with fixSlot := .replyHeld tag r body, heldOrder := s.hlc.heldOrder ++ [.fix] }

/-- The reply of a granted QUERY_POINT as its evaluation ends (R146, R147). -/
def queryEnds (tag : Byte) (r : Result) (body : List Byte) (s : State) : State :=
  if s.hlc.replies.length < 6 then formReply 0x1E tag r body (s.withHlc { s.hlc with querySlot := .empty })
  else s.withHlc { s.hlc with querySlot := .replyHeld tag r body, heldOrder := s.hlc.heldOrder ++ [.query] }

/-- A READ_ZONE body from its fields, in the order of section 9.5. -/
def zoneBody (entry state kind : Byte) (a : Attrs) (b : Box) (count : Nat) (stamp : BitVec 16) : List Byte :=
  [entry, state, kind] ++ attrsBytes a ++
  beBytes 4 (BitVec.ofInt 32 b.xmin).toNat ++ beBytes 4 (BitVec.ofInt 32 b.ymin).toNat ++
  beBytes 4 (BitVec.ofInt 32 b.xmax).toNat ++ beBytes 4 (BitVec.ofInt 32 b.ymax).toNat ++
  beBytes 2 count ++ beBytes 2 stamp.toNat

/-- The fix part of the last fix (R93). -/
def lastFixPart (sl : Slot) : Option FixPart :=
  match sl.lastFix with
  | none => none
  | some f => some ⟨f.time, f.x, f.y⟩

/-- The priority of a catch-up ENTER or EXIT: that of a LIVE zone, else OBJ_EVENT_PRIO (R107). -/
def catchUpPriority (s : State) (z : ZoneId) : BitVec 3 :=
  match s.zs.active.get z with
  | .live _ a _ => a.priority
  | .absent _ _ => s.params.objEventPrio

/-- The catch-up group of a slot as the events it becomes (R93, R101, R107, R108). -/
def catchUpEvents (s : State) (sl : Slot) : List (EventKind × BitVec 3) :=
  let fix := lastFixPart sl
  let g := s.zs.generation
  (if sl.phase = .tracked ∧ sl.toldQuiet = true then [(.resumed sl.id .catchup fix, s.params.objEventPrio)] else []) ++
  (zonesIn fun z => inSet sl.toldSet z && !inSet sl.inside z).map (fun z => (.exit sl.id z .catchup g fix, catchUpPriority s z)) ++
  (zonesIn fun z => inSet sl.inside z && !inSet sl.toldSet z).map (fun z => (.enter sl.id z .catchup g fix, catchUpPriority s z)) ++
  (if sl.phase = .quiet ∧ sl.toldQuiet = false then [(.quiet sl.id .catchup fix, s.params.objEventPrio)] else []) ++
  (if sl.phase = .retiring then [(.retired sl.id sl.cause.cause, s.params.objEventPrio)] else [])

/-- The slot of a TRACKED or QUIET object brought up to date: clean, its told record equal to its truth (R105). -/
def Slot.upToDate (sl : Slot) : Slot :=
  { sl with toldSet := sl.inside, toldQuiet := decide (sl.phase = .quiet), dirty := false }

/-- The group of a retirement as the events it becomes (R61, R107, R108). -/
def retireEvents (s : State) (sl : Slot) (cause : Cause) : List (EventKind × BitVec 3) :=
  (zonesIn (inSet sl.inside)).map (fun z => (.exit sl.id z .retire s.zs.generation none, livePriority s z)) ++
  [(.retired sl.id cause, s.params.objEventPrio)]

/-- A slot left RETIRING: in no zone, no counts, both timers stopped (R61). -/
def Slot.leaving (sl : Slot) (cause : RetireCause) (dirty : Bool) : Slot :=
  { sl with
    phase := .retiring
    cause := cause
    inside := 0
    run := Table.fill 64 0
    quietTimer := .stopped
    retireTimer := .stopped
    dirty := dirty }

/-- Every zone of an inside set is LIVE (R51). -/
def InsideLive (s : State) (sl : Slot) : Prop :=
  ∀ z, inSet sl.inside z = true → (s.zs.active.get z).isLive = true

/-- A source waits (R72). -/
def Waits (s : State) : Source → Prop
  | .hostFix => ∃ tag f, s.hlc.fixSlot = .waiting tag f
  | .query => ∃ tag q, s.hlc.querySlot = .waiting tag q
  | .feed => s.flr.queue ≠ []

/-- The source is the first that waits at or after the grant pointer, in the order host fix slot, query slot, Fix Queue and back (R73). -/
def FirstWaiting (s : State) (src : Source) : Prop :=
  Waits s src ∧
  (src ≠ s.ev.pointer → ¬ Waits s s.ev.pointer) ∧
  (src = s.ev.pointer.next.next → ¬ Waits s s.ev.pointer.next)

/-- A QUIET_TIME or RETIRE_TIME as a timer that starts now (R54, R55, R56). -/
def startedTimer (length : Nat) : Timer :=
  if length = 0 then .stopped else .running length 0

/-- What the dwell filter makes of a zone, by the table of R85: the inside bit and counter before and after. -/
def DwellTable (r inside : Bool) (run : Nat) (enterCount exitCount : Nat) (inside' : Bool) (run' : Nat) : Prop :=
  (inside = false → r = false → inside' = false ∧ run' = 0) ∧
  (inside = false → r = true → enterCount ≤ run + 1 → inside' = true ∧ run' = 0) ∧
  (inside = false → r = true → run + 1 < enterCount → inside' = false ∧ run' = run + 1) ∧
  (inside = true → r = true → inside' = true ∧ run' = 0) ∧
  (inside = true → r = false → exitCount ≤ run + 1 → inside' = false ∧ run' = 0) ∧
  (inside = true → r = false → run + 1 < exitCount → inside' = true ∧ run' = run + 1)

/-- The raw result of a LIVE zone: 0 when the filter excludes the class, else the geometric result, inverted by INVERT (R15 to R17). -/
def liveRaw (s : State) (g : Geometry) (a : Attrs) (x y : Coord) (cls : BitVec 3) : Bool :=
  a.filter.getLsbD cls.toNat && (if a.invert then !geometricResult s.zs.pool g x.toInt y.toInt else geometricResult s.zs.pool g x.toInt y.toInt)

/-- The group of a written completion as the events it becomes, from the slot before and the inside set after (R86, R93, R107, R108). -/
def completionEvents (s : State) (sl : Slot) (inside : ZoneSet) (f : Fix) : List (EventKind × BitVec 3) :=
  let fix : Option FixPart := some ⟨f.time, f.x, f.y⟩
  let g := s.zs.generation
  (if sl.phase = .quiet then [(.resumed sl.id .fix fix, s.params.objEventPrio)] else []) ++
  (zonesIn fun z => inSet sl.inside z && !inSet inside z).map (fun z => (.exit sl.id z .fix g fix, livePriority s z)) ++
  (zonesIn fun z => inSet inside z && !inSet sl.inside z).map (fun z => (.enter sl.id z .fix g fix, livePriority s z))

/-- The zone is LIVE with quiet policy DROP (R56). -/
def isDrop (s : State) (z : ZoneId) : Bool :=
  match s.zs.active.get z with
  | .live _ a _ => decide (a.quiet = .drop)
  | .absent _ _ => false

/-- The group of a quiet expiry as the events it becomes (R56, R93, R107, R108). -/
def quietEvents (s : State) (sl : Slot) : List (EventKind × BitVec 3) :=
  (zonesIn fun z => inSet sl.inside z && isDrop s z).map (fun z => (.exit sl.id z .quiet s.zs.generation none, livePriority s z)) ++
  [(.quiet sl.id .quiet (lastFixPart sl), s.params.objEventPrio)]

/-! ### Words for the inside test -/

/-- Edge `i` of an outline: vertex `i` to the vertex after it, the first after the last (R6). -/
def edgeAt (vs : List Point) (i : Nat) : Point × Point :=
  (vs.getD i ⟨0, 0⟩, vs.getD ((i + 1) % vs.length) ⟨0, 0⟩)

/-- The edge with these lower and upper end points crosses the point: its row lies in yL ≤ y < yU, and the edge-side value is positive (R7).
No edge is crossed with its ends taken the other way round, nor one whose ends have equal y. -/
abbrev CrossedBy (lower upper : Point) (x y : Int) : Prop :=
  lower.y.toInt ≤ y ∧ y < upper.y.toInt ∧
  0 < (upper.x.toInt - lower.x.toInt) * (y - lower.y.toInt) - (x - lower.x.toInt) * (upper.y.toInt - lower.y.toInt)

/-- The number of edges that run upward and cross the point (R6, R8). -/
def upwardCrossings (vs : List Point) (x y : Int) : Nat :=
  ((List.range vs.length).filter fun i => decide (CrossedBy (edgeAt vs i).1 (edgeAt vs i).2 x y)).length

/-- The number of edges that run downward and cross the point (R6, R8). -/
def downwardCrossings (vs : List Point) (x y : Int) : Nat :=
  ((List.range vs.length).filter fun i => decide (CrossedBy (edgeAt vs i).2 (edgeAt vs i).1 x y)).length

/-! ### Words for a millisecond -/

/-- A timer that is stopped, or that one more millisecond leaves within its length: it does not expire in that millisecond (R1). -/
def Timer.lasts : Timer → Bool
  | .stopped => true
  | .running length elapsed => elapsed < length

/-- A timer a millisecond later: it has run one more, and a stopped one stands still (R1). -/
def Timer.counted : Timer → Timer
  | .stopped => .stopped
  | .running length elapsed => .running length (elapsed + 1)

/-- Neither the quiet timer of a TRACKED object nor the retire timer of a QUIET one expires in the coming millisecond (R1, R55, R58). -/
def Slot.lasts (sl : Slot) : Bool :=
  (sl.phase != .tracked || sl.quietTimer.lasts) && (sl.phase != .quiet || sl.retireTimer.lasts)

/-- The gap timer of a frame in reception does not expire in the coming millisecond (R1, R137, R158). -/
def Framer.lasts : Framer → Bool
  | .hunt => true
  | .frame _ gap => gap < 10

/-- A framer a millisecond later, its gap timer still running (R1, R137). -/
def Framer.counted : Framer → Framer
  | .hunt => .hunt
  | .frame stored gap => .frame stored (gap + 1)

/-- The part a millisecond later as far as time alone goes: part time and every running timer have counted it, and nothing has expired (R1,
R55, R58, R120, R137, R158). -/
def counted (s : State) : State :=
  { s with
    partTime := s.partTime + 1
    slots := s.slots.map fun sl => { sl with quietTimer := sl.quietTimer.counted, retireTimer := sl.retireTimer.counted }
    eq := { s.eq with held := s.eq.held.map fun h => { h with timer := h.timer.counted } }
    hlc := { s.hlc with framer := s.hlc.framer.counted }
    flr := { s.flr with framer := s.flr.framer.counted } }

/-! ### Words for a commit -/

/-- The group of forced exits of a slot at a commit from `s` to `t`, as the events it becomes: in ascending zone id, with their causes, the
new generation and the zones' priorities (R66, R107, R108). -/
def forcedEvents (s t : State) (sl : Slot) : List (EventKind × BitVec 3) :=
  (zonesIn fun z => decide (Forced s t sl z)).map fun z =>
    (.exit sl.id z (if (t.zs.active.get z).isLive then .zoneChanged else .zoneRemoved) t.zs.generation none, livePriority t z)

/-- The Reporter takes the forced exits of slot `i`: nothing of an empty group or of a dirty object's, a group that fits whole, and of any other
nothing, with the object at the tail of the dirty list (R94, R97). -/
def tellSlot (s t : State) (told : EventQueue × List SlotNo) (i : SlotNo) : EventQueue × List SlotNo :=
  let sl := s.slots.get i
  let group := forcedEvents s t sl
  if group = [] ∨ sl.dirty = true then told
  else if group.length ≤ told.1.free then (joined told.1 group, told.2)
  else (told.1, told.2 ++ [i])

/-- The Event Queue and the dirty list after the forced exits of a commit, the slots taken in ascending number (R66, R98). -/
def tellForced (s t : State) : EventQueue × List SlotNo :=
  (List.finRange 128).foldl (tellSlot s t) (s.eq, s.dirty)

end Sys2Proof.Machine
end

