-- ==== Sys2Proof/Certificates/Slice0/Obligations.lean ====
section
/-! DEFINITION. The statements about the ZM2416, for the provers. -/

open Sys2Proof Sys2Proof.Machine

/-! ### Steps, the queue of commands and the pins -/

/-- The command at the front of the queue is taken with the queue's rest. -/
def Obligations.StepTakesTheFrontCommand : Prop :=
  ∀ (c : Instr) (rest : List Instr) (s : State),
    s.pending = c :: rest → step s = exec c (s.withPending rest)

/-- With no command waiting: nothing happens while RESETn is low (R181, log entry 5); an outstanding grant is made; an evaluation whose walk has
passed zone 63 completes; and otherwise a millisecond passes. In it part time and every running timer count 1 (R1, R55, R58, R120, R137, R158): a
slot whose timers do not expire keeps its state, the held events whose timers do not expire stay, and a gap timer past 10 ms abandons its frame.
When no timer expires, time alone has passed; when only a slot's timer does, its expiry follows. The order of these is the model's choice (log
entries 1, 3, 11). -/
def Obligations.EmptyQueueRunsOn : Prop :=
  ∀ s : State, s.pending = [] →
    (s.resetn = false → step s = .next s) ∧
    (s.resetn = true →
      (s.ev.context = none → (arbiterChoice s).isSome = true → step s = exec .arbiterGrant s) ∧
      (∀ c, s.ev.context = some c → 64 ≤ c.walk → s.ev.ofQuery = false → step s = exec .fixCompletion s) ∧
      (∀ c, s.ev.context = some c → 64 ≤ c.walk → s.ev.ofQuery = true → step s = exec .queryCompletion s) ∧
      ((s.ev.context = none ∧ arbiterChoice s = none ∨ ∃ c, s.ev.context = some c ∧ c.walk < 64) →
        ∃ t, step s = .next t ∧ t.pending = [] ∧ t.partTime = s.partTime + 1 ∧
          t.resetn = true ∧ t.params = s.params ∧ t.zs = s.zs ∧
          t.hlc = { s.hlc with framer := if s.hlc.framer.lasts then s.hlc.framer.counted else .hunt } ∧
          t.flr = { s.flr with framer := if s.flr.framer.lasts then s.flr.framer.counted else .hunt } ∧
          (s.ev.context = none → t.ev = s.ev) ∧
          (∀ c, s.ev.context = some c → ∃ raw walk, c.walk ≤ walk ∧
            t.ev = { s.ev with context := some { c with raw := raw, walk := walk } }) ∧
          (∀ i, let sl := s.slots.get i
            let tl := t.slots.get i
            sl.phase ≠ .retiring → sl.lasts = true →
              tl.phase = sl.phase ∧ tl.quietTimer = sl.quietTimer.counted ∧ tl.retireTimer = sl.retireTimer.counted) ∧
          (QueueSound s.eq → t.eq.held =
            (s.eq.held.filter fun h => h.timer.lasts).map fun h => { h with timer := h.timer.counted }) ∧
          let heldLast := ∀ h ∈ s.eq.held, h.timer.lasts = true
          let gapsLast := s.hlc.framer.lasts = true ∧ s.flr.framer.lasts = true
          let passes := fun u : State => t = (u.withEv t.ev).withPaceIndex t.paceIndex
          ((∀ i, (s.slots.get i).lasts = true) → heldLast → gapsLast → passes (counted s)) ∧
          (∀ i, (s.slots.get i).lasts = false → (∀ j, j ≠ i → (s.slots.get j).lasts = true) → heldLast → gapsLast →
            ((s.slots.get i).phase = .tracked → ∃ u, exec (.quietExpiry i) (counted s) = .next u ∧ passes u) ∧
            ((s.slots.get i).phase = .quiet → ∃ u, exec (.retireExpiry i) (counted s) = .next u ∧ passes u))))

/-- Every command answers a next state in every state, and leaves the rest of the queue and the index of free values as they are. -/
def Obligations.EveryCommandAnswers : Prop :=
  ∀ (c : Instr) (s : State), ∃ t, exec c s = .next t ∧ t.pending = s.pending ∧ t.paceIndex = s.paceIndex

/-- While RESETn is low nothing is taken but the pin events, and every output is at its idle level (R181; log entry 5). -/
def Obligations.HeldInReset : Prop :=
  ∀ s : State, s.resetn = false →
    (∀ c : Instr, (∀ h f, c ≠ .pinReset h f) → c ≠ .resetnLow → exec c s = .next s) ∧
    s.attn = false ∧ s.hholdPin = false ∧ s.fholdPin = false ∧ s.htx = none

/-- RESETN_LOW holds the part: the outputs go to their idle levels and everything else waits for the pin reset (R181; log entry 12). -/
def Obligations.ResetnLowHolds : Prop :=
  ∀ s : State, ∃ t, exec .resetnLow s = .next t ∧
    t = ((s.withResetn false).withHlc { s.hlc with hhold := false }).withFlr { s.flr with fhold := false } ∧
    t.attn = false ∧ t.hholdPin = false ∧ t.fholdPin = false ∧ t.htx = none

/-- A pin reset gives every block its starting values from any state, and reads the straps. The model's choices are the start of part time
(log entry 1), the vertex pool's contents, the fields of a FREE slot and the start of the arrival count (log entries 8, 9, 10), and that the
waiting commands and the index of free values stay (log entry 22). -/
def Obligations.PinResetStartsThePart : Prop :=
  ∀ (hrate frate : Bool) (s : State), ∃ t, exec (.pinReset hrate frate) s = .next t ∧
    t.pending = s.pending ∧ t.paceIndex = s.paceIndex ∧ t.resetn = true ∧ t.partTime = 0 ∧
    (∀ z, t.zs.active.get z = .absent 0 0 ∧ t.zs.draft.get z = .inherit) ∧
    t.zs.generation = 0 ∧ t.zs.freeList = List.finRange 512 ∧ t.zs.retiring = [] ∧
    (∀ b, t.zs.pool.get b = Table.fill 8 ⟨0, 0⟩) ∧
    (∀ i, t.slots.get i = Slot.empty) ∧
    t.ev = { pointer := .hostFix, context := none } ∧ t.dirty = [] ∧
    t.eq = { waiting := [], held := [], nextSeq := 0, nextArrival := 0, admitWaiting := 0, admitFirstId := none,
             overrunWaiting := 0, armed := false, mask := 0xFF } ∧
    t.hlc = { framer := .hunt, fixSlot := .empty, querySlot := .empty, heldOrder := [], replies := [], fresh := true, dropped := false,
              hhold := false, discarded := 0, rate := if hrate then .baud460800 else .baud115200 } ∧
    t.flr = { framer := .hunt, queue := [], fhold := false, framesDiscarded := 0, fixesDiscarded := 0,
              rate := if frate then .baud460800 else .baud115200 } ∧
    t.params = { autoAdmit := true, minQuality := 4, quietTime := 5000, retireTime := 0, redeliverTime := 2000,
                 objEventPrio := 3, sysEventPrio := 6 } ∧
    t.attn = false ∧ t.htx = none

/-- The Event Queue after a pin reset (R131). -/
def Obligations.PinResetFreesEveryEntry : Prop :=
  ∀ (hrate frate : Bool) (s : State), ∃ t, exec (.pinReset hrate frate) s = .next t ∧
    t.eq.free = 96 ∧ t.eq.waiting = [] ∧ t.eq.held = [] ∧ t.eq.nextSeq = 0 ∧
    t.eq.admitWaiting = 0 ∧ t.eq.overrunWaiting = 0 ∧ t.eq.admitFirstId = none ∧
    t.eq.armed = false ∧ (∀ p : Fin 8, t.eq.mask.getLsbD p.val = true) ∧ t.attn = false

/-! ### Frames, replies and refusals of the host link -/

/-- A reply is formed: it joins the tail with its flags, both marks are consumed and HHOLD is settled; nothing else moves. Its frame is the
bytes of R134 with the CRC of R135. -/
def Obligations.ReplyIsFormed : Prop :=
  (∀ (type tag : Byte) (r : Result) (body : List Byte) (s : State),
    formReply type tag r body s = s.withHlc
      { s.hlc with
        replies := s.hlc.replies ++ [⟨type + 0x80, tag, r, flagsWith s s.hlc.fresh s.hlc.dropped, body⟩]
        fresh := false
        dropped := false
        hhold := hholdAt (s.hlc.replies.length + 1) s.hlc.hhold }) ∧
  (∀ (s : State) (fresh drop : Bool),
    (flagsWith s fresh drop).getLsbD 0 = fresh ∧ (flagsWith s fresh drop).getLsbD 1 = drop ∧
    ((flagsWith s fresh drop).getLsbD 2 = true ↔ s.eq.waiting ≠ []) ∧
    ((flagsWith s fresh drop).getLsbD 3 = true ↔ s.dirty ≠ []) ∧
    ∀ i, 4 ≤ i → (flagsWith s fresh drop).getLsbD i = false) ∧
  (∀ r : Reply,
    let covered := [BitVec.ofNat 8 (r.body.length + 4), r.type, r.tag, r.result.code, r.flags] ++ r.body
    r.frame = [0xA5] ++ covered ++ beBytes 2 (crc16 covered).toNat)

/-- A request that would place a reply and finds no entry free is discarded: the DROPPED mark is set and nothing else happens. This is every
immediate request, and a deferred one of the wrong length (R151). -/
def Obligations.FullReplyQueueDiscards : Prop :=
  ∀ (c : Instr) (type tag : Byte) (p : List Byte) (s : State),
    hostFrameOf c = some (type, tag, p) → Hears s type tag p → ¬ HasRoom s →
    (type ≠ 0x15 ∧ type ≠ 0x1E ∨ lengthAllowed type p = false) →
    exec c s = .next (dropped s)

/-- A request whose payload length is not allowed is answered BAD_LENGTH and changes nothing (R139, R169). -/
def Obligations.BadLengthRefused : Prop :=
  ∀ (c : Instr) (type tag : Byte) (p : List Byte) (s : State),
    hostFrameOf c = some (type, tag, p) → Hears s type tag p → HasRoom s → lengthAllowed type p = false →
    exec c s = .next (formReply type tag .badLength [] (heard s))

/-- A frame whose TYPE names no request is answered UNKNOWN_TYPE at any length, whatever command it came by (R139, R169). -/
def Obligations.UnknownTypeRefused : Prop :=
  ∀ (type tag : Byte) (p : List Byte) (s : State),
    Hears s type tag p → HasRoom s →
    type ∉ [0x01, 0x02, 0x03, 0x04, 0x05, 0x08, 0x09, 0x0A, 0x0B, 0x0C, 0x0D, 0x0E, 0x0F, 0x10,
      0x14, 0x15, 0x16, 0x17, 0x18, 0x1A, 0x1B, 0x1C, 0x1E] →
    exec (.unknownType type tag p) s = .next (formReply type tag .unknownType [] (heard s))

/-- A frame command that the receiver does not take whole is taken byte by byte, as its bytes come (log entry 6). -/
def Obligations.OtherFramesComeByBytes : Prop :=
  ∀ (c : Instr) (type tag : Byte) (p : List Byte) (s : State), s.resetn = true →
    (hostFrameOf c = some (type, tag, p) → ¬ Hears s type tag p →
      exec c s = .next (hostBytes (frameBytes type tag p) s)) ∧
    (feedFrameOf c = some (type, tag, p) → ¬ FeedHears s type tag p →
      exec c s = .next (feedBytes (frameBytes type tag p) s))

/-- A frame's remaining bytes, taken by a receiver that holds none of it or a beginning of it, give exactly the frame, and the receiver is
in HUNT afterwards: what the encoder of R134 and R135 writes, the receiver of R136 and R138 reads. -/
def Obligations.FramesAreFound : Prop :=
  ∀ (type tag : Byte) (p : List Byte) (f : Framer),
    p.length ≤ 246 → f.expects (frameTail type tag p) = true →
    f.receive (f.remaining (frameTail type tag p)) = (.hunt, [.frame type tag p])

/-- A frame that fails its CRC is counted, and then its stored bytes are taken again by the receiver in HUNT (R138, R159). -/
def Obligations.CrcFailureIsExaminedAgain : Prop :=
  ∀ (bytes : List Byte) (s : State), s.resetn = true → failingFrame bytes = true →
    (s.hlc.framer.expects bytes = true →
      exec (.hostFrameCrcFail bytes) s =
        .next (hostBytes bytes ((heard s).withHlc { (heard s).hlc with discarded := satInc s.hlc.discarded }))) ∧
    (s.hlc.framer.expects bytes = false →
      exec (.hostFrameCrcFail bytes) s = .next (hostBytes (startByte :: bytes) s)) ∧
    (s.flr.framer.expects bytes = true →
      exec (.feedFrameCrcFail bytes) s =
        .next (feedBytes bytes ((feedHeard s).withFlr
          { (feedHeard s).flr with framesDiscarded := satInc s.flr.framesDiscarded }))) ∧
    (s.flr.framer.expects bytes = false →
      exec (.feedFrameCrcFail bytes) s = .next (feedBytes (startByte :: bytes) s))

/-- Start bytes, bad LEN bytes, framing faults and gap timers at the two framers. In HUNT and LENGTH, and for a fault or a timer in any state,
nothing is counted; a byte in BODY or CHECK is taken as data, which may complete a frame (R136, R137, R157, R158; log entries 2 and 6). -/
def Obligations.LineEventsMoveTheFramers : Prop :=
  ∀ s : State, s.resetn = true →
    (s.hlc.framer = .hunt → exec .hostFrameStart s = .next (s.withHostFramer (.frame [] 0))) ∧
    (s.hlc.framer ≠ .hunt → exec .hostFrameStart s = .next (hostBytes [0xA5] s)) ∧
    (s.flr.framer = .hunt → exec .feedFrameStart s = .next (s.withFeedFramer (.frame [] 0))) ∧
    (s.flr.framer ≠ .hunt → exec .feedFrameStart s = .next (feedBytes [0xA5] s)) ∧
    (∀ len : Byte, len.toNat ≤ 1 ∨ 249 ≤ len.toNat →
      (s.hlc.framer.phase = .hunt ∨ s.hlc.framer.phase = .length →
        exec (.hostBadLen len) s = .next (s.withHostFramer .hunt)) ∧
      (s.flr.framer.phase = .hunt ∨ s.flr.framer.phase = .length →
        exec (.feedBadLen len) s = .next (s.withFeedFramer .hunt))) ∧
    (∀ len : Byte,
      (s.hlc.framer.phase = .body ∨ s.hlc.framer.phase = .check → exec (.hostBadLen len) s = .next (hostBytes [len] s)) ∧
      (s.flr.framer.phase = .body ∨ s.flr.framer.phase = .check → exec (.feedBadLen len) s = .next (feedBytes [len] s))) ∧
    exec .hostFramingFault s = .next (s.withHostFramer .hunt) ∧
    exec .feedFramingFault s = .next (s.withFeedFramer .hunt) ∧
    (∀ stored gap, s.hlc.framer = .frame stored gap →
      exec .hostGapTimeout s = .next (if 10 ≤ gap then s.withHostFramer .hunt else s)) ∧
    (s.hlc.framer = .hunt → exec .hostGapTimeout s = .next s) ∧
    (∀ stored gap, s.flr.framer = .frame stored gap →
      exec .feedGapTimeout s = .next (if 10 ≤ gap then s.withFeedFramer .hunt else s)) ∧
    (s.flr.framer = .hunt → exec .feedGapTimeout s = .next s)

/-- The last byte of the reply at the head leaves: its entry is freed, HHOLD is settled, and the reply whose evaluation ended first among
those held is formed and takes the entry (R147, R149, R150). With no reply in the queue nothing leaves (log entry 4). -/
def Obligations.ReplySentFreesTheHead : Prop :=
  ∀ s : State, s.resetn = true →
    (s.hlc.replies = [] → exec .replySent s = .next s) ∧
    (∀ r rest, s.hlc.replies = r :: rest →
      (s.hlc.heldOrder = [] →
        exec .replySent s = .next (s.withHlc
          { s.hlc with replies := rest, hhold := hholdAt rest.length s.hlc.hhold })) ∧
      (∀ others tag result body, s.hlc.heldOrder = .fix :: others → s.hlc.fixSlot = .replyHeld tag result body →
        exec .replySent s = .next (formReply 0x15 tag result body (s.withHlc
          { s.hlc with replies := rest, hhold := hholdAt rest.length s.hlc.hhold, fixSlot := .empty, heldOrder := others }))) ∧
      (∀ others tag result body, s.hlc.heldOrder = .query :: others → s.hlc.querySlot = .replyHeld tag result body →
        exec .replySent s = .next (formReply 0x1E tag result body (s.withHlc
          { s.hlc with replies := rest, hhold := hholdAt rest.length s.hlc.hhold, querySlot := .empty, heldOrder := others }))))

/-- The first failing check of a POST_FIX or QUERY_POINT gives its reply, or the request is discarded with no entry free; one that passes
waits in its slot and needs no entry (R144, R145, R151). -/
def Obligations.DeferredRequestsAreChecked : Prop :=
  ∀ (s : State) (tag : Byte) (p : List Byte),
    (Hears s 0x15 tag p → p.length = 15 →
      let f := fixOf p
      let refused := fun r => exec (.postFix tag p) s =
        .next (if s.hlc.replies.length < 6 then formReply 0x15 tag r [] (heard s) else dropped s)
      (f.id = 0 ∨ f.reserved = true → refused .badValue) ∧
      (f.id ≠ 0 → f.reserved = false →
        (f.quality.toNat < s.params.minQuality.toNat → refused .lowQuality) ∧
        (s.params.minQuality.toNat ≤ f.quality.toNat →
          (TagHeld s tag → refused .duplicateTag) ∧
          (¬ TagHeld s tag →
            (s.hlc.fixSlot ≠ .empty → refused .slotBusy) ∧
            (s.hlc.fixSlot = .empty →
              exec (.postFix tag p) s = .next ((heard s).withHlc { (heard s).hlc with fixSlot := .waiting tag f })))))) ∧
    (Hears s 0x1E tag p → p.length = 7 →
      let refused := fun r => exec (.queryPoint tag p) s =
        .next (if s.hlc.replies.length < 6 then formReply 0x1E tag r [] (heard s) else dropped s)
      (7 < (byteAt p 6).toNat → refused .badValue) ∧
      ((byteAt p 6).toNat ≤ 7 →
        (TagHeld s tag → refused .duplicateTag) ∧
        (¬ TagHeld s tag →
          (s.hlc.querySlot ≠ .empty → refused .slotBusy) ∧
          (s.hlc.querySlot = .empty →
            exec (.queryPoint tag p) s = .next ((heard s).withHlc
              { (heard s).hlc with
                querySlot := .waiting tag ⟨coordAt p 0, coordAt p 3, BitVec.ofNat 3 (byteAt p 6).toNat⟩ })))))

/-! ### PING, the parameter store, STATUS and RESTART -/

/-- PING (R152): the echo, the BAD_LENGTH of a longer payload, and the discard of R151. -/
def Obligations.PingEchoes : Prop :=
  ∀ (s : State) (tag : Byte) (p : List Byte), Hears s 0x01 tag p →
    (HasRoom s → p.length ≤ 32 → exec (.ping tag p) s = .next (formReply 0x01 tag .ok p (heard s))) ∧
    (HasRoom s → 32 < p.length → exec (.ping tag p) s = .next (formReply 0x01 tag .badLength [] (heard s))) ∧
    (¬ HasRoom s → exec (.ping tag p) s = .next (dropped s))

/-- STATUS reports every figure at its place of section 9.6 and, with CLEAR, zeroes the three counters after the report (R176, R177). The
premises bound the lists as the invariants do. -/
def Obligations.StatusReportsTheFigures : Prop :=
  ∀ (s : State) (tag b : Byte), Hears s 0x02 tag [b] → HasRoom s →
    s.zs.freeList.length ≤ 512 → s.zs.retiring.length ≤ 512 → s.dirty.length ≤ 128 →
    s.eq.waiting.length ≤ 96 → s.eq.held.length ≤ 8 → s.flr.queue.length ≤ 32 →
    ∃ body,
      exec (.status tag [b]) s = .next (formReply 0x02 tag .ok body
        (if b.getLsbD 0 then
          ((heard s).withHlc { (heard s).hlc with discarded := 0 }).withFlr { s.flr with framesDiscarded := 0, fixesDiscarded := 0 }
         else heard s)) ∧
      body.length = 24 ∧
      field body 0 2 = s.zs.generation.toNat ∧
      field body 2 1 = ((List.finRange 64).filter fun z => s.zs.draft.get z ≠ .inherit).length ∧
      field body 3 1 = (if ∃ z, (s.zs.draft.get z).isOpen = true then 1 else 0) ∧
      field body 4 2 = s.zs.freeList.length ∧ field body 6 2 = s.zs.retiring.length ∧
      field body 8 1 = ((List.finRange 128).filter fun i => (s.slots.get i).phase = .tracked).length ∧
      field body 9 1 = ((List.finRange 128).filter fun i => (s.slots.get i).phase = .quiet).length ∧
      field body 10 1 = ((List.finRange 128).filter fun i => (s.slots.get i).phase = .retiring).length ∧
      field body 11 1 = s.dirty.length ∧ field body 12 1 = s.eq.waiting.length ∧ field body 13 1 = s.eq.held.length ∧
      field body 14 1 = s.flr.queue.length ∧
      field body 15 1 = (match s.ev.context with
        | none => 0
        | some c => match c.job with
          | .hostFix _ _ => 1
          | .query _ _ => 2
          | .feedFix _ _ => 3) ∧
      field body 16 1 = (if s.flr.fhold then 1 else 0) + (if s.hlc.hhold then 2 else 0) + (if s.eq.armed then 4 else 0) +
        (if s.eq.armed = true ∧ ∃ e ∈ s.eq.waiting, s.eq.mask.getLsbD e.priority.toNat = true then 8 else 0) ∧
      field body 17 1 = s.eq.mask.toNat ∧
      field body 18 2 = s.hlc.discarded.toNat ∧ field body 20 2 = s.flr.framesDiscarded.toNat ∧
      field body 22 2 = s.flr.fixesDiscarded.toNat

/-- SET_PARAM gives the named parameter the value and keeps the others, or refuses an id or value outside R173 and keeps them all (R174). -/
def Obligations.SetParamSetsOne : Prop :=
  ∀ (s : State) (tag id : Byte) (v : Nat), v < 2 ^ 32 → Hears s 0x04 tag (id :: beBytes 4 v) → HasRoom s →
    (paramAllows id.toNat v = true →
      ∃ q : Params, exec (.setParam tag (id :: beBytes 4 v)) s = .next (formReply 0x04 tag .ok [] ((heard s).withParams q)) ∧
        q.value id = some v ∧ ∀ other, other ≠ id → q.value other = s.params.value other) ∧
    (paramAllows id.toNat v = false →
      exec (.setParam tag (id :: beBytes 4 v)) s = .next (formReply 0x04 tag .badValue [] (heard s)))

/-- GET_PARAM reports the id and the value in 4 bytes, or refuses the id (R175). -/
def Obligations.GetParamReports : Prop :=
  ∀ (s : State) (tag id : Byte), Hears s 0x05 tag [id] → HasRoom s →
    let reports := fun v => exec (.getParam tag [id]) s = .next (formReply 0x05 tag .ok (id :: beBytes 4 v) (heard s))
    (id = 1 → reports (if s.params.autoAdmit then 1 else 0)) ∧
    (id = 2 → reports s.params.minQuality.toNat) ∧
    (id = 3 → reports s.params.quietTime) ∧
    (id = 4 → reports s.params.retireTime) ∧
    (id = 5 → reports s.params.redeliverTime) ∧
    (id = 6 → reports s.params.objEventPrio.toNat) ∧
    (id = 7 → reports s.params.sysEventPrio.toNat) ∧
    (id = 0 ∨ 7 < id.toNat → exec (.getParam tag [id]) s = .next (formReply 0x05 tag .badValue [] (heard s)))

/-- RESTART: a payload is BAD_LENGTH; with fewer than 1 + k entries free it is discarded and restarts nothing; otherwise it is executed as
one step, and every block takes its restart values (R178, R179, R154). The model's choices there: a held reply's slot counts as occupied (log
entry 16); the pool's contents, the fields of a FREE slot and the start of the arrival count (log entries 8, 9, 10); part time goes on (log entry
19); and the waiting commands and the index of free values stay (log entry 22). -/
def Obligations.RestartNeedsItsEntries : Prop :=
  ∀ (s : State) (tag : Byte) (p : List Byte), Hears s 0x03 tag p →
    (p ≠ [] → HasRoom s → exec (.restart tag p) s = .next (formReply 0x03 tag .badLength [] (heard s))) ∧
    (p = [] → 6 < s.hlc.replies.length + 1 + occupiedSlots s → exec (.restart tag p) s = .next (dropped s)) ∧
    (p = [] → s.hlc.replies.length + 1 + occupiedSlots s ≤ 6 →
      ∃ t, exec (.restart tag p) s = .next t ∧
        t.hlc.replies = s.hlc.replies ++ abortedReplies s ++ [⟨0x83, tag, .ok, 0x01, []⟩] ∧
        t.hlc = { framer := .hunt, fixSlot := .empty, querySlot := .empty, heldOrder := [], replies := t.hlc.replies,
                  fresh := false, dropped := false, hhold := decide (4 < t.hlc.replies.length), discarded := 0, rate := s.hlc.rate } ∧
        t.zs = ZoneStore.reset ∧ (∀ i, t.slots.get i = Slot.empty) ∧ t.ev = { pointer := .hostFix, context := none } ∧
        t.dirty = [] ∧ t.eq = EventQueue.reset ∧ t.flr = { FeedLink.reset false with rate := s.flr.rate } ∧
        t.params = Params.reset ∧
        t.pending = s.pending ∧ t.resetn = s.resetn ∧ t.partTime = s.partTime ∧ t.paceIndex = s.paceIndex)

/-! ### The Zone Store -/

/-- A zone id above 63 gives BAD_VALUE in each request that names a zone, whatever else its payload holds, once the length has been tested
(R22). -/
def Obligations.ZoneIdAbove63Refused : Prop :=
  ∀ (c : Instr) (type tag : Byte) (p : List Byte) (s : State),
    hostFrameOf c = some (type, tag, p) → type ∈ [0x08, 0x09, 0x0A, 0x0B, 0x0C, 0x0F, 0x10] →
    Hears s type tag p → HasRoom s →
    (lengthAllowed type p = true → 63 < (byteAt p 0).toNat →
      exec c s = .next (formReply type tag .badValue [] (heard s))) ∧
    (lengthAllowed type p = false → exec c s = .next (formReply type tag .badLength [] (heard s)))

/-- DEFINE_ZONE makes its checks in order, and one that passes replaces whatever the entry held, with its chain freed first (R28, R29). -/
def Obligations.DefineZoneDrafts : Prop :=
  ∀ (s : State) (tag : Byte) (p : List Byte), Hears s 0x08 tag p → HasRoom s → lengthAllowed 0x08 p = true →
    let refused := fun r => exec (.defineZone tag p) s = .next (formReply 0x08 tag r [] (heard s))
    let a := attrsAt p 2
    let b := boxAt p 5
    (63 < (byteAt p 0).toNat → refused .badValue) ∧
    ∀ z : ZoneId, (byteAt p 0).toNat = z.val →
      let drafted := fun e => exec (.defineZone tag p) s = .next (formReply 0x08 tag .ok [] ((heard s).withZs
        { s.zs with freeList := s.zs.freeList ++ (s.zs.draft.get z).chain, draft := s.zs.draft.set z e }))
      (3 ≤ (byteAt p 1).toNat → refused .badValue) ∧
      ((byteAt p 1).toNat ≤ 2 → (a.enterCount = 0 ∨ a.exitCount = 0) → refused .badValue) ∧
      (a.enterCount ≠ 0 → a.exitCount ≠ 0 →
        (byteAt p 1 = 0 → (b.xmax ≤ b.xmin ∨ b.ymax ≤ b.ymin) → refused .badShape) ∧
        (byteAt p 1 = 0 → b.xmin < b.xmax → b.ymin < b.ymax → drafted (.closed (.box b) a)) ∧
        (byteAt p 1 = 1 → drafted (.opened .evenOdd a 0 [])) ∧
        (byteAt p 1 = 2 → drafted (.opened .nonzero a 0 [])))

/-- AMEND_ZONE acts by the entry and the record (R33). -/
def Obligations.AmendZoneActs : Prop :=
  ∀ (s : State) (tag : Byte) (p : List Byte), Hears s 0x09 tag p → HasRoom s → p.length = 4 →
    let refused := fun r => exec (.amendZone tag p) s = .next (formReply 0x09 tag r [] (heard s))
    let a := attrsAt p 1
    (63 < (byteAt p 0).toNat → refused .badValue) ∧
    ∀ z : ZoneId, (byteAt p 0).toNat = z.val →
      let amended := fun e => exec (.amendZone tag p) s = .next (formReply 0x09 tag .ok [] ((heard s).withZs
        { s.zs with draft := s.zs.draft.set z e }))
      (a.enterCount = 0 ∨ a.exitCount = 0 → refused .badValue) ∧
      (a.enterCount ≠ 0 → a.exitCount ≠ 0 →
        (s.zs.draft.get z = .inherit → (s.zs.active.get z).isLive = true → amended (.amended a)) ∧
        (s.zs.draft.get z = .inherit → (s.zs.active.get z).isLive = false → refused .noZone) ∧
        (∀ rule old n chain, s.zs.draft.get z = .opened rule old n chain → amended (.opened rule a n chain)) ∧
        (∀ g old, s.zs.draft.get z = .closed g old → amended (.closed g a)) ∧
        (∀ old, s.zs.draft.get z = .amended old → amended (.amended a)) ∧
        (s.zs.draft.get z = .deleted → refused .noZone))

/-- ADD_VERTICES makes its checks in order, and a refused request changes nothing (R30). -/
def Obligations.AddVerticesChecks : Prop :=
  ∀ (s : State) (tag : Byte) (p : List Byte), Hears s 0x0A tag p → HasRoom s → lengthAllowed 0x0A p = true →
    let refused := fun r body => exec (.addVertices tag p) s = .next (formReply 0x0A tag r body (heard s))
    let k := (byteAt p 1).toNat
    (63 < (byteAt p 0).toNat → refused .badValue []) ∧
    ∀ z : ZoneId, (byteAt p 0).toNat = z.val →
      (k = 0 ∨ 16 < k → refused .badValue []) ∧
      (1 ≤ k → k ≤ 16 →
        ((s.zs.draft.get z).isOpen = false → refused .zoneState []) ∧
        ∀ rule a n chain, s.zs.draft.get z = .opened rule a n chain →
          (512 < n + k → refused .badShape []) ∧
          (n + k ≤ 512 → s.zs.freeList.length < blocksNeeded n k →
            refused .noSpace (beBytes 2 s.zs.freeList.length)))

/-- An ADD_VERTICES that passes takes its blocks from the head of the free list, appends them to the chain, and the outline gains the
vertices in request order; no other block is written (R31). -/
def Obligations.AddVerticesAppends : Prop :=
  ∀ (s : State) (tag : Byte) (z : ZoneId) (vs : List Point) (rule : FillRule) (a : Attrs) (n : Nat) (chain : List BlockNo),
    let p := [BitVec.ofNat 8 z.val, BitVec.ofNat 8 vs.length] ++ vs.flatMap vertexBytes
    let need := blocksNeeded n vs.length
    let chain' := chain ++ s.zs.freeList.take need
    StoreSound s → Hears s 0x0A tag p → HasRoom s → 1 ≤ vs.length → vs.length ≤ 16 →
    s.zs.draft.get z = .opened rule a n chain → n + vs.length ≤ 512 → need ≤ s.zs.freeList.length →
    ∃ pool, exec (.addVertices tag p) s = .next (formReply 0x0A tag .ok [] ((heard s).withZs
        { s.zs with
          freeList := s.zs.freeList.drop need
          pool := pool
          draft := s.zs.draft.set z (.opened rule a (n + vs.length) chain') })) ∧
      verticesOf pool chain' (n + vs.length) = verticesOf s.zs.pool chain n ++ vs ∧
      ∀ b, b ∉ chain' → pool.get b = s.zs.pool.get b

/-- CLOSE_ZONE completes an open outline of at least 3 vertices with an extent on both axes, with the least half-open box around its
vertices (R13, R32). -/
def Obligations.CloseZoneCompletes : Prop :=
  ∀ (s : State) (tag : Byte) (z : ZoneId), Hears s 0x0B tag [BitVec.ofNat 8 z.val] → HasRoom s →
    let c := Instr.closeZone tag [BitVec.ofNat 8 z.val]
    ((s.zs.draft.get z).isOpen = false → exec c s = .next (formReply 0x0B tag .zoneState [] (heard s))) ∧
    ∀ rule a n chain, s.zs.draft.get z = .opened rule a n chain →
      let vs := verticesOf s.zs.pool chain n
      ((n < 3 ∨ (∀ v ∈ vs, ∀ w ∈ vs, v.x = w.x) ∨ (∀ v ∈ vs, ∀ w ∈ vs, v.y = w.y)) →
        exec c s = .next (formReply 0x0B tag .badShape [] (heard s))) ∧
      (3 ≤ n → (∃ v ∈ vs, ∃ w ∈ vs, v.x ≠ w.x) → (∃ v ∈ vs, ∃ w ∈ vs, v.y ≠ w.y) →
        ∃ b : Box,
          exec c s = .next (formReply 0x0B tag .ok [] ((heard s).withZs
            { s.zs with draft := s.zs.draft.set z (.closed (.polygon rule n chain b) a) })) ∧
          (∀ v ∈ vs, b.xmin ≤ v.x.toInt ∧ v.x.toInt < b.xmax ∧ b.ymin ≤ v.y.toInt ∧ v.y.toInt < b.ymax) ∧
          (∃ v ∈ vs, v.x.toInt = b.xmin) ∧ (∃ v ∈ vs, v.x.toInt + 1 = b.xmax) ∧
          (∃ v ∈ vs, v.y.toInt = b.ymin) ∧ (∃ v ∈ vs, v.y.toInt + 1 = b.ymax))

/-- DELETE_ZONE acts by the active record and the draft entry (R34). -/
def Obligations.DeleteZoneActs : Prop :=
  ∀ (s : State) (tag b : Byte), Hears s 0x0C tag [b] → HasRoom s →
    let c := Instr.deleteZone tag [b]
    (63 < b.toNat → exec c s = .next (formReply 0x0C tag .badValue [] (heard s))) ∧
    ∀ z : ZoneId, b.toNat = z.val →
      let entryBecomes := fun e => exec c s = .next (formReply 0x0C tag .ok [] ((heard s).withZs
        { s.zs with freeList := s.zs.freeList ++ (s.zs.draft.get z).chain, draft := s.zs.draft.set z e }))
      ((s.zs.active.get z).isLive = true → entryBecomes .deleted) ∧
      ((s.zs.active.get z).isLive = false →
        (∀ rule a n chain, s.zs.draft.get z = .opened rule a n chain → entryBecomes .inherit) ∧
        (∀ g a, s.zs.draft.get z = .closed g a → entryBecomes .inherit) ∧
        (s.zs.draft.get z = .inherit → exec c s = .next (formReply 0x0C tag .noZone [] (heard s))))

/-- DISCARD_DRAFT returns every entry to INHERIT and frees the draft chains in ascending zone id (R35). -/
def Obligations.DiscardDraftFrees : Prop :=
  ∀ (s : State) (tag : Byte), Hears s 0x0D tag [] → HasRoom s →
    ∃ draft, exec (.discardDraft tag []) s = .next (formReply 0x0D tag .ok [] ((heard s).withZs
        { s.zs with
          freeList := s.zs.freeList ++ (List.finRange 64).flatMap (fun z => (s.zs.draft.get z).chain)
          draft := draft })) ∧
      (∀ z, draft.get z = .inherit) ∧
      ((∀ z, s.zs.draft.get z = .inherit) →
        exec (.discardDraft tag []) s = .next (formReply 0x0D tag .ok [] (heard s)))

/-- COMMIT is refused while an entry is DEFINED_OPEN, answers NOTHING when every entry is INHERIT, and otherwise takes the whole plan: the
generation, every record with its stamp, the draft, the departing chains and the void set of an evaluation in flight
(R19, R20, R36, R37, R38, R39, R81). The OK reply is formed on the state after the forced exits, so its PENDING and DIRTY show them (log entry
20). -/
def Obligations.CommitTakesThePlan : Prop :=
  ∀ (s : State) (tag : Byte), Hears s 0x0E tag [] → HasRoom s →
    (∀ z, (s.zs.draft.get z).isOpen = true → (∀ y : ZoneId, y.val < z.val → (s.zs.draft.get y).isOpen = false) →
      exec (.commit tag []) s = .next (formReply 0x0E tag .draftOpen [BitVec.ofNat 8 z.val] (heard s))) ∧
    ((∀ z, s.zs.draft.get z = .inherit) →
      exec (.commit tag []) s = .next (formReply 0x0E tag .nothing [] (heard s))) ∧
    ((∀ z, (s.zs.draft.get z).isOpen = false) → (∃ z, s.zs.draft.get z ≠ .inherit) →
      let g : BitVec 16 := if s.zs.generation = 0xFFFF then 1 else s.zs.generation + 1
      let departing := (List.finRange 64).flatMap fun z => match s.zs.draft.get z with
        | .closed _ _ => (s.zs.active.get z).chain
        | .deleted => (s.zs.active.get z).chain
        | _ => []
      ∃ t, exec (.commit tag []) s = .next (formReply 0x0E tag .ok (beBytes 2 g.toNat) t) ∧
        t.zs.generation = g ∧ (∀ z, t.zs.draft.get z = .inherit) ∧ t.zs.pool = s.zs.pool ∧
        (s.ev.context.isSome = true → t.zs.freeList = s.zs.freeList ∧ t.zs.retiring = s.zs.retiring ++ departing) ∧
        (s.ev.context = none → t.zs.freeList = s.zs.freeList ++ departing ∧ t.zs.retiring = s.zs.retiring) ∧
        (∀ z,
          (s.zs.draft.get z = .inherit → t.zs.active.get z = s.zs.active.get z) ∧
          (∀ geo a, s.zs.draft.get z = .closed geo a → t.zs.active.get z = .live geo a g) ∧
          (s.zs.draft.get z = .deleted → t.zs.active.get z = .absent g (s.zs.active.get z).priority) ∧
          (∀ a geo old st, s.zs.draft.get z = .amended a → s.zs.active.get z = .live geo old st →
            t.zs.active.get z = .live geo a (if a = { old with priority := a.priority } then st else g))) ∧
        t.ev.pointer = s.ev.pointer ∧
        (s.ev.context = none → t.ev.context = none) ∧
        (∀ c, s.ev.context = some c → ∃ void, t.ev.context = some { c with void := void } ∧
          ∀ z : ZoneId, inSet void z = (inSet c.void z || changes (s.zs.active.get z) (s.zs.draft.get z))) ∧
        t.hlc = (heard s).hlc ∧ t.flr = s.flr ∧ t.params = s.params ∧ t.pending = s.pending ∧ t.resetn = s.resetn ∧
        t.partTime = s.partTime ∧ t.paceIndex = s.paceIndex)

/-- The consequences of an effective commit in the Object Table, in every state: the counters of the changed zones are 0, the forced exits
leave the inside sets, and nothing else of an object changes but what the Reporter writes (R65, R66). The OK reply is formed after them (log entry
20). -/
def Obligations.CommitForcesExits : Prop :=
  ∀ (s : State) (tag : Byte), Hears s 0x0E tag [] → HasRoom s →
    (∀ z, (s.zs.draft.get z).isOpen = false) → (∃ z, s.zs.draft.get z ≠ .inherit) →
    ∃ t body, exec (.commit tag []) s = .next (formReply 0x0E tag .ok body t) ∧
      ∀ i, (s.slots.get i).phase ≠ .free →
        let sl := s.slots.get i
        let tl := t.slots.get i
        tl.phase = sl.phase ∧ tl.id = sl.id ∧ tl.cls = sl.cls ∧ tl.lastFix = sl.lastFix ∧ tl.stale = sl.stale ∧ tl.cause = sl.cause ∧
        tl.quietTimer = sl.quietTimer ∧ tl.retireTimer = sl.retireTimer ∧
        ∀ z,
          tl.run.get z = (if changes (s.zs.active.get z) (s.zs.draft.get z) then 0 else sl.run.get z) ∧
          (inSet tl.inside z = true ↔ inSet sl.inside z = true ∧ ¬ Forced s t sl z)

/-- The forced exits of an effective commit reach the Reporter slot by slot in ascending number, each object's group whole: a clean object's group
that fits is queued and its told set follows; a clean object's that does not is refused, and the object joins the tail of the dirty list; a dirty
object's is refused, and it keeps its place; a refused object keeps its told set (R66, R94, R95, R97, R98, R107, R108). So when there is room for
them all and no object is dirty, every exit is pending with its cause, the new generation and its priority. The OK reply is formed after them (log
entry 20). -/
def Obligations.CommitTellsForcedExits : Prop :=
  ∀ (s : State) (tag : Byte), Hears s 0x0E tag [] → HasRoom s →
    (∀ z, (s.zs.draft.get z).isOpen = false) → (∃ z, s.zs.draft.get z ≠ .inherit) → ObjectsSound s →
    ∃ t body, exec (.commit tag []) s = .next (formReply 0x0E tag .ok body t) ∧
      t.eq = (tellForced s t).1 ∧ t.dirty = (tellForced s t).2 ∧
      (∀ i, let sl := s.slots.get i
        let tl := t.slots.get i
        sl.phase ≠ .free → tl.toldQuiet = sl.toldQuiet ∧
          (i ∈ t.dirty → tl.dirty = true ∧ tl.toldSet = sl.toldSet) ∧
          (i ∉ t.dirty → tl.dirty = false ∧ tl.toldSet = tl.inside)) ∧
      ∀ losses : List (SlotNo × ZoneId), losses.Nodup → (∀ i z, (i, z) ∈ losses ↔ Forced s t (s.slots.get i) z) →
        s.dirty = [] → losses.length ≤ s.eq.free →
        t.dirty = [] ∧ t.eq.waiting.length = s.eq.waiting.length + losses.length ∧ t.eq.held = s.eq.held ∧
        ∀ i z, (i, z) ∈ losses →
          inSet (t.slots.get i).toldSet z = false ∧
          Pending t
            (.exit (s.slots.get i).id z (if (t.zs.active.get z).isLive then .zoneChanged else .zoneRemoved) t.zs.generation none)
            (t.zs.active.get z).priority

/-- READ_ZONE and READ_VERTICES report the active view or the draft view as it stands, and change nothing (R41, R42, R43, section 9.5). -/
def Obligations.ReadsOfTheStore : Prop :=
  (∀ (s : State) (tag zb view : Byte), Hears s 0x0F tag [zb, view] → HasRoom s →
    let answers := fun r body => exec (.readZone tag [zb, view]) s = .next (formReply 0x0F tag r body (heard s))
    (63 < zb.toNat → answers .badValue []) ∧
    ∀ z : ZoneId, zb.toNat = z.val →
      let shows := fun state kind a b n =>
        answers .ok (zoneBody (s.zs.draft.get z).code state kind a b n (s.zs.active.get z).stamp)
      (1 < view.toNat → answers .badValue []) ∧
      (view = 0 ∨ view = 1 ∧ s.zs.draft.get z = .inherit →
        (∀ st p, s.zs.active.get z = .absent st p → shows 0 0 ⟨p, false, .hold, 0, 0, 0⟩ ⟨0, 0, 0, 0⟩ 0) ∧
        (∀ b a st, s.zs.active.get z = .live (.box b) a st → shows 2 0 a b 0) ∧
        (∀ n chain b a st, s.zs.active.get z = .live (.polygon .evenOdd n chain b) a st → shows 2 1 a b n) ∧
        (∀ n chain b a st, s.zs.active.get z = .live (.polygon .nonzero n chain b) a st → shows 2 2 a b n)) ∧
      (view = 1 →
        (∀ a n chain, s.zs.draft.get z = .opened .evenOdd a n chain → shows 1 1 a ⟨0, 0, 0, 0⟩ n) ∧
        (∀ a n chain, s.zs.draft.get z = .opened .nonzero a n chain → shows 1 2 a ⟨0, 0, 0, 0⟩ n) ∧
        (∀ b a, s.zs.draft.get z = .closed (.box b) a → shows 2 0 a b 0) ∧
        (∀ n chain b a, s.zs.draft.get z = .closed (.polygon .evenOdd n chain b) a → shows 2 1 a b n) ∧
        (∀ n chain b a, s.zs.draft.get z = .closed (.polygon .nonzero n chain b) a → shows 2 2 a b n) ∧
        (∀ a b old st, s.zs.draft.get z = .amended a → s.zs.active.get z = .live (.box b) old st → shows 2 0 a b 0) ∧
        (∀ a n chain b old st, s.zs.draft.get z = .amended a → s.zs.active.get z = .live (.polygon .evenOdd n chain b) old st →
          shows 2 1 a b n) ∧
        (∀ a n chain b old st, s.zs.draft.get z = .amended a → s.zs.active.get z = .live (.polygon .nonzero n chain b) old st →
          shows 2 2 a b n) ∧
        (s.zs.draft.get z = .deleted → shows 0 0 ⟨(s.zs.active.get z).priority, false, .hold, 0, 0, 0⟩ ⟨0, 0, 0, 0⟩ 0))) ∧
  (∀ (s : State) (tag zb view : Byte) (first : Nat), first < 65536 →
    Hears s 0x10 tag ([zb, view] ++ beBytes 2 first) → HasRoom s →
    let answers := fun r body => exec (.readVertices tag ([zb, view] ++ beBytes 2 first)) s =
      .next (formReply 0x10 tag r body (heard s))
    (63 < zb.toNat → answers .badValue []) ∧
    ∀ z : ZoneId, zb.toNat = z.val →
      let reads := fun vs =>
        (vs.length ≤ first → answers .badValue []) ∧
        (first < vs.length → answers .ok (beBytes 2 vs.length ++ [BitVec.ofNat 8 (min 16 (vs.length - first))] ++
          ((vs.drop first).take 16).flatMap fun v => beBytes 3 v.x.toNat ++ beBytes 3 v.y.toNat))
      (1 < view.toNat → answers .badValue []) ∧
      (view = 0 ∨ view = 1 ∧ (s.zs.draft.get z = .inherit ∨ ∃ a, s.zs.draft.get z = .amended a) →
        (∀ rule n chain b a st, s.zs.active.get z = .live (.polygon rule n chain b) a st → reads (verticesOf s.zs.pool chain n)) ∧
        (∀ b a st, s.zs.active.get z = .live (.box b) a st → reads []) ∧
        (∀ st p, s.zs.active.get z = .absent st p → reads [])) ∧
      (view = 1 →
        (∀ rule a n chain, s.zs.draft.get z = .opened rule a n chain → reads (verticesOf s.zs.pool chain n)) ∧
        (∀ rule n chain b a, s.zs.draft.get z = .closed (.polygon rule n chain b) a → reads (verticesOf s.zs.pool chain n)) ∧
        (∀ b a, s.zs.draft.get z = .closed (.box b) a → reads []) ∧
        (s.zs.draft.get z = .deleted → reads [])))

/-- The inside test of chapter 1, in every pool and at every point: a box holds the points of R5; a polygon holds those its fill rule gives from
the edges alone, which are those with an odd number of crossed edges (EVEN_ODD) or with unequal numbers of upward and downward ones (NONZERO), as
R6 to R10 take them; and the prefilter of R14 changes no result. So a repeated vertex and a reversed outline change nothing (R8, R12), a rectangle
in either order holds the points of its box, and no polygon holds a point of the last column or the last row (R11). -/
def Obligations.PrefilterGivesTheEdgeTest : Prop :=
  (∀ (pool : Table Block 512) (b : Box) (x y : Int),
    geometricResult pool (.box b) x y = true ↔ b.xmin ≤ x ∧ x < b.xmax ∧ b.ymin ≤ y ∧ y < b.ymax) ∧
  (∀ (pool : Table Block 512) (rule : FillRule) (n : Nat) (chain : List BlockNo) (x y : Int),
    let vs := verticesOf pool chain n
    geometricResult pool (.polygon rule n chain (boundingBox vs)) x y = fillInside rule vs x y) ∧
  (∀ (vs : List Point) (x y : Int),
    (fillInside .evenOdd vs x y = true ↔ (upwardCrossings vs x y + downwardCrossings vs x y) % 2 = 1) ∧
    (fillInside .nonzero vs x y = true ↔ upwardCrossings vs x y ≠ downwardCrossings vs x y)) ∧
  ∀ (rule : FillRule) (x y : Int),
    (∀ vs, (boundingBox vs).holds x y = false → fillInside rule vs x y = false) ∧
    (∀ vs, fillInside rule vs.reverse x y = fillInside rule vs x y) ∧
    (∀ front v back, fillInside rule (front ++ v :: v :: back) x y = fillInside rule (front ++ v :: back) x y) ∧
    (∀ v vs, fillInside rule (v :: vs ++ [v]) x y = fillInside rule (v :: vs) x y) ∧
    (∀ a b c d : Coord, a.toInt < c.toInt → b.toInt < d.toInt →
      ∀ vs ∈ [[(⟨a, b⟩ : Point), ⟨c, b⟩, ⟨c, d⟩, ⟨a, d⟩], [⟨a, d⟩, ⟨c, d⟩, ⟨c, b⟩, ⟨a, b⟩]],
        (fillInside rule vs x y = true ↔ a.toInt ≤ x ∧ x < c.toInt ∧ b.toInt ≤ y ∧ y < d.toInt)) ∧
    (∀ vs, 8388607 ≤ x ∨ 8388607 ≤ y → fillInside rule vs x y = false)

/-- Fix records, attribute blocks and vertices as they are written on the wire read back as they were, so no bit of a layout is lost
(R168, R170, section 9.3). -/
def Obligations.RecordsReadBack : Prop :=
  (∀ (fixes : List Fix) (rest : List Byte), fixesOf fixes.length (fixes.flatMap fixBytes ++ rest) = fixes) ∧
  (∀ (a : Attrs) (front rest : List Byte), attrsAt (front ++ attrsBytes a ++ rest) front.length = a) ∧
  (∀ (b0 b1 : Byte) (vs : List Point) (rest : List Byte),
    verticesAt ([b0, b1] ++ vs.flatMap vertexBytes ++ rest) vs.length = vs) ∧
  (∀ (n v : Nat) (front rest : List Byte), v < 256 ^ n → field (front ++ beBytes n v ++ rest) front.length n = v)

/-! ### The Object Table -/

/-- DECLARE_OBJECT makes its four checks in order; one that passes takes the lowest-numbered FREE slot, and nothing else changes (R54). -/
def Obligations.DeclareObjectTakesASlot : Prop :=
  ∀ (s : State) (tag : Byte) (p : List Byte), Hears s 0x14 tag p → HasRoom s → p.length = 5 →
    let id : ObjId := BitVec.ofNat 32 (field p 0 4)
    let answers := fun r body t => exec (.declareObject tag p) s = .next (formReply 0x14 tag r body t)
    (id = 0 → answers .badValue [] (heard s)) ∧
    (id ≠ 0 → 7 < (byteAt p 4).toNat → answers .badValue [] (heard s)) ∧
    (id ≠ 0 → (byteAt p 4).toNat ≤ 7 →
      ((∃ j, (s.slots.get j).phase ≠ .free ∧ (s.slots.get j).id = id) → answers .objectExists [] (heard s)) ∧
      (Unknown s id →
        ((∀ j, (s.slots.get j).phase ≠ .free) → answers .tableFull [] (heard s)) ∧
        ∀ i, LowestFree s i → answers .ok [BitVec.ofNat 8 i.val] ((heard s).withSlots (s.slots.set i
          { phase := .tracked, id := id, cls := BitVec.ofNat 3 (byteAt p 4).toNat, lastFix := none, inside := 0, run := Table.fill 64 0,
            toldSet := 0, toldQuiet := false, stale := 0, dirty := false, cause := .none,
            quietTimer := startedTimer s.params.quietTime, retireTimer := .stopped }))))

/-- RETIRE_OBJECT makes its checks in order. With SILENT it frees the slot, and the reconciler acts when it took the head of a longer dirty
list; without, the group is queued whole and the slot freed, or the object is left RETIRING and dirty (R60, R61, R63, R94 to R97, R100,
R103). The OK reply is formed after these changes, so its PENDING and DIRTY show them (log entry 20). -/
def Obligations.RetireObjectActs : Prop :=
  ∀ (s : State) (tag : Byte) (p : List Byte), Hears s 0x16 tag p → HasRoom s → p.length = 5 →
    let id : ObjId := BitVec.ofNat 32 (field p 0 4)
    let answers := fun r body t => exec (.retireObject tag p) s = .next (formReply 0x16 tag r body t)
    (id = 0 → answers .badValue [] (heard s)) ∧
    (id ≠ 0 → Unknown s id → answers .noObject [] (heard s)) ∧
    ∀ i, id ≠ 0 → HoldsId s i id →
      let sl := s.slots.get i
      let others := s.dirty.filter (· != i)
      let freed := ((heard s).withSlots (s.slots.set i Slot.empty)).withDirty others
      (sl.phase = .retiring → answers .objectState [] (heard s)) ∧
      (sl.phase ≠ .retiring → (byteAt p 4).getLsbD 0 = true →
        (s.dirty.head? = some i → others ≠ [] → answers .ok [0] (reconcile freed)) ∧
        ((s.dirty.head? ≠ some i ∨ others = []) → answers .ok [0] freed)) ∧
      (sl.phase ≠ .retiring → (byteAt p 4).getLsbD 0 = false → ObjectsSound s → InsideLive s sl →
        let events := retireEvents s sl .retire
        (sl.dirty = true → answers .ok [3] ((heard s).withSlots (s.slots.set i (sl.leaving .retire true)))) ∧
        (sl.dirty = false → events.length ≤ s.eq.free → answers .ok [0] (freed.withEq (joined s.eq events))) ∧
        (sl.dirty = false → s.eq.free < events.length →
          answers .ok [3] (((heard s).withSlots (s.slots.set i (sl.leaving .retire true))).withDirty (s.dirty ++ [i]))))

/-- READ_OBJECT and LIST_OBJECTS report the table as it stands and change nothing (R69, R70, section 9.5). -/
def Obligations.ReadsOfTheTable : Prop :=
  (∀ (s : State) (tag : Byte) (p : List Byte), Hears s 0x17 tag p → HasRoom s → p.length = 4 →
    let id : ObjId := BitVec.ofNat 32 (field p 0 4)
    let answers := fun r body => exec (.readObject tag p) s = .next (formReply 0x17 tag r body (heard s))
    (id = 0 → answers .badValue []) ∧
    (id ≠ 0 → Unknown s id → answers .noObject []) ∧
    ∀ i, id ≠ 0 → HoldsId s i id →
      let sl := s.slots.get i
      let counted := zonesIn fun z => decide (sl.run.get z ≠ 0)
      ∃ body, answers .ok body ∧ body.length = 34 + 2 * counted.length ∧
        byteAt body 0 = BitVec.ofNat 8 i.val ∧
        (sl.phase = .tracked → byteAt body 1 = 1) ∧ (sl.phase = .quiet → byteAt body 1 = 2) ∧ (sl.phase = .retiring → byteAt body 1 = 3) ∧
        (byteAt body 2).toNat = sl.cls.toNat ∧
        (∀ k, (byteAt body 3).getLsbD k =
          if k = 0 then sl.lastFix.isSome else if k = 1 then sl.dirty else if k = 2 then sl.toldQuiet else false) ∧
        byteAt body 4 = (match sl.cause with
          | .none => 0
          | .quiet => 5
          | .retire => 6) ∧
        byteAt body 5 = sl.stale ∧
        (∀ f, sl.lastFix = some f →
          field body 6 4 = f.time.toNat ∧ coordAt body 10 = f.x ∧ coordAt body 13 = f.y ∧ (byteAt body 16).toNat = f.quality.toNat) ∧
        (sl.lastFix = none → field body 6 11 = 0) ∧
        field body 17 8 = sl.inside.toNat ∧ field body 25 8 = sl.toldSet.toNat ∧
        field body 33 1 = counted.length ∧
        body.drop 34 = counted.flatMap fun z => [BitVec.ofNat 8 z.val, BitVec.ofNat 8 (sl.run.get z)]) ∧
  (∀ (s : State) (tag first : Byte), Hears s 0x18 tag [first] → HasRoom s →
    let answers := fun r body => exec (.listObjects tag [first]) s = .next (formReply 0x18 tag r body (heard s))
    let found := (List.finRange 128).filter fun i : SlotNo => decide (first.toNat ≤ i.val ∧ (s.slots.get i).phase ≠ .free)
    let lists := fun next => answers .ok ([next, BitVec.ofNat 8 (min 16 found.length)] ++
      (found.take 16).flatMap fun i => [BitVec.ofNat 8 i.val] ++ beBytes 4 (s.slots.get i).id.toNat ++ [(s.slots.get i).phase.code])
    (127 < first.toNat → answers .badValue []) ∧
    (first.toNat ≤ 127 →
      (found.length ≤ 16 → lists 0xFF) ∧
      (∀ i, 16 < found.length → found[15]? = some i → lists (BitVec.ofNat 8 (i.val + 1)))))

/-- A quiet timer that is due makes its object QUIET and leaves the DROP zones, and the group is queued whole or the object is dirty; a timer
that is stopped or not yet due does nothing (R56, R94, R97; log entry 2). -/
def Obligations.QuietExpiryLeavesDropZones : Prop :=
  ∀ (s : State) (i : SlotNo), s.resetn = true →
    let sl := s.slots.get i
    let answers := fun t => exec (.quietExpiry i) s = .next t
    ((sl.phase ≠ .tracked ∨ sl.quietTimer.due = false) → answers s) ∧
    ∀ length elapsed, sl.phase = .tracked → sl.quietTimer = .running length elapsed → length ≤ elapsed → ObjectsSound s →
      ∃ (inside : ZoneSet) (run : Table Nat 64),
        (∀ z, inSet inside z = (inSet sl.inside z && !isDrop s z)) ∧
        (∀ z, run.get z = if isDrop s z then 0 else sl.run.get z) ∧
        let quiet := { sl with
          phase := SlotPhase.quiet, inside := inside, run := run, quietTimer := .stopped,
          retireTimer := startedTimer s.params.retireTime }
        let events := quietEvents s sl
        (sl.dirty = true → answers (s.withSlots (s.slots.set i quiet))) ∧
        (sl.dirty = false → events.length ≤ s.eq.free →
          answers ((s.withSlots (s.slots.set i quiet.upToDate)).withEq (joined s.eq events))) ∧
        (sl.dirty = false → s.eq.free < events.length →
          answers ((s.withSlots (s.slots.set i { quiet with dirty := true })).withDirty (s.dirty ++ [i])))

/-- A retire timer that is due retires its QUIET object with cause QUIET and no reply; a timer that is stopped or not yet due does nothing
(R59, R61, R94 to R97; log entry 2). -/
def Obligations.RetireExpiryRetires : Prop :=
  ∀ (s : State) (i : SlotNo), s.resetn = true →
    let sl := s.slots.get i
    let answers := fun t => exec (.retireExpiry i) s = .next t
    ((sl.phase ≠ .quiet ∨ sl.retireTimer.due = false) → answers s) ∧
    ∀ length elapsed, sl.phase = .quiet → sl.retireTimer = .running length elapsed → length ≤ elapsed → ObjectsSound s → InsideLive s sl →
      let events := retireEvents s sl .quiet
      (sl.dirty = true → answers (s.withSlots (s.slots.set i (sl.leaving .quiet true)))) ∧
      (sl.dirty = false → events.length ≤ s.eq.free →
        answers ((s.withSlots (s.slots.set i Slot.empty)).withEq (joined s.eq events))) ∧
      (sl.dirty = false → s.eq.free < events.length →
        answers ((s.withSlots (s.slots.set i (sl.leaving .quiet true))).withDirty (s.dirty ++ [i])))

/-! ### The Event Queue and the reconciler -/

/-- An event that joins takes the first number at or after the next-sequence value that no queued event carries, the latest arrival, and
its place behind every pending event of its own or a higher priority (R114, R115, R116; the arrival as a count is log entry 10). -/
def Obligations.JoiningTakesItsPlace : Prop :=
  ∀ (q : EventQueue) (kind : EventKind) (priority : BitVec 3), QueueSound q →
    ∃ (steps : Nat) (front back : List Event),
      let carried := fun seq : BitVec 16 => ∃ e ∈ q.queued, e.seq = seq
      let seq := q.nextSeq + BitVec.ofNat 16 steps
      (∀ k, k < steps → carried (q.nextSeq + BitVec.ofNat 16 k)) ∧ ¬ carried seq ∧
      q.waiting = front ++ back ∧
      q.join kind priority =
        { q with waiting := front ++ ⟨seq, kind, priority, q.nextArrival, false⟩ :: back, nextSeq := seq + 1, nextArrival := q.nextArrival + 1 } ∧
      (∀ x ∈ front, priority.toNat ≤ x.priority.toNat) ∧ (∀ x ∈ back, x.priority.toNat < priority.toNat)

/-- TAKE_EVENT: HELD_FULL, then EMPTY, then the first pending event goes to the tail of the held list with a fresh timer and its record is the
body (R118); the record's header and fields are those of section 9.4 (R171). The reply is formed after the take, so the take of the only pending
event carries PENDING clear (log entry 20). -/
def Obligations.TakeEventDelivers : Prop :=
  (∀ (s : State) (tag b : Byte), Hears s 0x1A tag [b] → HasRoom s →
    let answers := fun r body t => exec (.takeEvent tag [b]) s = .next (formReply 0x1A tag r body t)
    (8 ≤ s.eq.held.length → answers .heldFull [] (heard s)) ∧
    (s.eq.held.length < 8 → s.eq.waiting = [] → answers .empty [] (heard s)) ∧
    (∀ e rest, s.eq.held.length < 8 → s.eq.waiting = e :: rest →
      answers .ok (eventRecord e) ((heard s).withEq
        { s.eq with
          waiting := rest
          held := s.eq.held ++ [⟨e, .running s.params.redeliverTime 0⟩]
          armed := if b.getLsbD 0 then s.eq.armed else false }))) ∧
  (∀ e : Event,
    let r := eventRecord e
    let fix := fun f : Option FixPart => match f with
      | none => []
      | some f => beBytes 4 f.time.toNat ++ beBytes 3 f.x.toNat ++ beBytes 3 f.y.toNat
    let body := fun (code : Byte) (bytes : List Byte) => byteAt r 2 = code ∧ r.drop 4 = bytes
    field r 0 2 = e.seq.toNat ∧
    (∀ k, (byteAt r 3).getLsbD k =
      if k < 3 then e.priority.getLsbD k else if k = 6 then e.kind.fixPart.isSome else if k = 7 then e.redelivered else false) ∧
    (∀ id z c g f, e.kind = .enter id z c g f →
      body 1 (beBytes 4 id.toNat ++ [BitVec.ofNat 8 z.val, c.code] ++ beBytes 2 g.toNat ++ fix f)) ∧
    (∀ id z c g f, e.kind = .exit id z c g f →
      body 2 (beBytes 4 id.toNat ++ [BitVec.ofNat 8 z.val, c.code] ++ beBytes 2 g.toNat ++ fix f)) ∧
    (∀ id c f, e.kind = .quiet id c f → body 3 (beBytes 4 id.toNat ++ [c.code] ++ fix f)) ∧
    (∀ id c f, e.kind = .resumed id c f → body 4 (beBytes 4 id.toNat ++ [c.code] ++ fix f)) ∧
    (∀ id c, e.kind = .retired id c → body 5 (beBytes 4 id.toNat ++ [c.code])) ∧
    (∀ id n, e.kind = .admitRefused id n → body 6 (beBytes 4 id.toNat ++ beBytes 2 n.toNat)) ∧
    (∀ n, e.kind = .feedOverrun n → body 7 (beBytes 2 n.toNat)))

/-- RELEASE_EVENT acts by where the event of its seq stands, and a freed entry starts the work of R126 (R119). The reply is formed after the release and that work, so its PENDING and DIRTY show them (log entry
20). -/
def Obligations.ReleaseEventFrees : Prop :=
  ∀ (s : State) (tag : Byte) (seq : BitVec 16), Hears s 0x1B tag (beBytes 2 seq.toNat) → HasRoom s → QueueSound s.eq →
    let answers := fun r t => exec (.releaseEvent tag (beBytes 2 seq.toNat)) s = .next (formReply 0x1B tag r [] t)
    ((∃ h ∈ s.eq.held, h.event.seq = seq) →
      answers .ok (entryFreed ((heard s).withEq { s.eq with held := s.eq.held.filter fun h => h.event.seq != seq }))) ∧
    (∀ e ∈ s.eq.waiting, e.seq = seq →
      (e.redelivered = true →
        answers .okLate (entryFreed ((heard s).withEq { s.eq with waiting := s.eq.waiting.filter fun e => e.seq != seq }))) ∧
      (e.redelivered = false → answers .unknownSeq (heard s))) ∧
    ((∀ e ∈ s.eq.queued, e.seq ≠ seq) → answers .unknownSeq (heard s))

/-- A freed entry goes to the waiting ADMIT_REFUSED, then the waiting FEED_OVERRUN, then the reconciler; and the reconciler takes the catch-up
group of the head alone, while it leaves 8 entries free, and goes on with the next head (R101, R104, R105, R126). -/
def Obligations.FreedEntriesAreUsed : Prop :=
  (∀ s : State,
    let prio := s.params.sysEventPrio
    let q1 := if s.eq.admitWaiting ≠ 0 ∧ s.eq.waiting.length + s.eq.held.length < 96 then
        { s.eq.join (.admitRefused (s.eq.admitFirstId.getD 0) s.eq.admitWaiting) prio with admitWaiting := 0, admitFirstId := none }
      else s.eq
    let q2 := if q1.overrunWaiting ≠ 0 ∧ q1.waiting.length + q1.held.length < 96 then
        { q1.join (.feedOverrun q1.overrunWaiting) prio with overrunWaiting := 0 }
      else q1
    entryFreed s = reconcile (s.withEq q2)) ∧
  (∀ s : State, s.dirty = [] → reconcile s = s) ∧
  (∀ (s : State) (i : SlotNo) (rest : List SlotNo), ObjectsSound s → s.dirty = i :: rest →
    let sl := s.slots.get i
    let events := catchUpEvents s sl
    (s.eq.free < events.length + 8 → reconcile s = s) ∧
    (events.length + 8 ≤ s.eq.free →
      reconcile s = reconcile (((s.withEq (joined s.eq events)).withSlots (s.slots.set i
        (if sl.phase = .retiring then Slot.empty else sl.upToDate))).withDirty rest)))

/-- ARM_ATTN sets the mask and the arm state, and ATTN follows at once: it is asserted exactly while armed with an enabled event pending
(R127, R128). -/
def Obligations.ArmAttnSets : Prop :=
  (∀ (s : State) (tag mask code : Byte), Hears s 0x1C tag [mask, code] → HasRoom s →
    let answers := fun r t => exec (.armAttn tag [mask, code]) s = .next (formReply 0x1C tag r [] t)
    (code = 0 → answers .ok ((heard s).withEq { s.eq with mask := mask, armed := false })) ∧
    (code = 1 → answers .ok ((heard s).withEq { s.eq with mask := mask, armed := true })) ∧
    (1 < code.toNat → answers .badValue (heard s))) ∧
  (∀ s : State, s.resetn = true →
    (s.attn = true ↔ s.eq.armed = true ∧ ∃ e ∈ s.eq.waiting, s.eq.mask.getLsbD e.priority.toNat = true))

/-- A redelivery timer that is due returns its event to the pending list, a system event merged first; a timer that is stopped or not yet due
does nothing (R121, R125; log entry 2). An older pending event that absorbs the returning one keeps its own REDELIVERED flag (log entry 18). -/
def Obligations.RedeliveryReturnsTheEvent : Prop :=
  ∀ (s : State) (seq : BitVec 16), s.resetn = true →
    let answers := fun t => exec (.redeliveryExpiry seq) s = .next t
    ((∀ h ∈ s.eq.held, h.event.seq = seq → h.timer.due = false) → answers s) ∧
    ∀ h ∈ s.eq.held, QueueSound s.eq → h.event.seq = seq → h.timer.due = true →
      let left := { s.eq with held := s.eq.held.filter fun x => x.event.seq != seq }
      let e := { h.event with redelivered := true }
      let placed := fun (list : List Event) (e : Event) (list' : List Event) => ∃ front back,
        list = front ++ back ∧ list' = front ++ e :: back ∧ (∀ x ∈ front, x.before e = true) ∧ (∀ x ∈ back, e.before x = true)
      (e.kind.system? = none → ∃ list, placed s.eq.waiting e list ∧ answers (s.withEq { left with waiting := list })) ∧
      (∀ k, e.kind.system? = some k →
        (∀ p ∈ s.eq.waiting, p.kind.system? = some k →
          (p.arrival < e.arrival →
            answers (entryFreed (s.withEq { left with waiting := s.eq.waiting.map fun x =>
              if x.seq = p.seq then { x with kind := x.kind.addReports e.kind.reports } else x }))) ∧
          (e.arrival < p.arrival → ∃ list,
            placed (s.eq.waiting.filter fun x => x.seq != p.seq) { e with kind := e.kind.addReports p.kind.reports } list ∧
            answers (entryFreed (s.withEq { left with waiting := list })))) ∧
        ((∀ p ∈ s.eq.waiting, p.kind.system? ≠ some k) → ∃ list,
          placed s.eq.waiting { e with kind := e.kind.addReports (s.eq.waitingCount k) } list ∧
          answers (s.withEq ({ left with waiting := list }.clearWaiting k)))) ∧
      ∀ a b : BitVec 16, (satAdd a b).toNat = min 65535 (a.toNat + b.toNat)

/-- A report of a system kind raises the pending event of its kind, else is queued as a new event, else is counted as waiting; an
ADMIT_REFUSED that waits keeps its first id (R123). -/
def Obligations.SystemReportsAreCounted : Prop :=
  ∀ (q : EventQueue) (id : ObjId) (priority : BitVec 3),
    let one := fun c : BitVec 16 => if c = 0xFFFF then c else c + 1
    let admits := q.waiting.any fun e => match e.kind with
      | .admitRefused _ _ => true
      | _ => false
    let overruns := q.waiting.any fun e => match e.kind with
      | .feedOverrun _ => true
      | _ => false
    (admits = true → q.report .admitRefused id priority = { q with waiting := q.waiting.map fun e => match e.kind with
      | .admitRefused first c => { e with kind := .admitRefused first (one c) }
      | _ => e }) ∧
    (admits = false → q.waiting.length + q.held.length < 96 →
      q.report .admitRefused id priority = q.join (.admitRefused id 1) priority) ∧
    (admits = false → 96 ≤ q.waiting.length + q.held.length →
      q.report .admitRefused id priority =
        { q with admitWaiting := one q.admitWaiting, admitFirstId := some (q.admitFirstId.getD id) }) ∧
    (overruns = true → q.report .feedOverrun id priority = { q with waiting := q.waiting.map fun e => match e.kind with
      | .feedOverrun c => { e with kind := .feedOverrun (one c) }
      | _ => e }) ∧
    (overruns = false → q.waiting.length + q.held.length < 96 →
      q.report .feedOverrun id priority = q.join (.feedOverrun 1) priority) ∧
    (overruns = false → 96 ≤ q.waiting.length + q.held.length →
      q.report .feedOverrun id priority = { q with overrunWaiting := one q.overrunWaiting })

/-! ### The feed link -/

/-- A good feed frame's fixes are received one after another; a frame that fails a check is counted and delivers none, by whichever command it
comes (R160, R161, R162, R164, R165, R166). -/
def Obligations.FeedFramesAreReceived : Prop :=
  (∀ (s : State) (tag : Byte) (fixes : List Fix), FeedHears s 0x21 tag (fixBatchPayload fixes) →
    (1 ≤ fixes.length → fixes.length ≤ 8 →
      exec (.fixBatch tag fixes) s = .next (fixes.foldl fixReceived (feedHeard s)) ∧
      exec (.feedFrameDiscard 0x21 tag (fixBatchPayload fixes)) s = .next (fixes.foldl fixReceived (feedHeard s))) ∧
    ((fixes.length = 0 ∨ 8 < fixes.length) →
      exec (.fixBatch tag fixes) s = .next ((feedHeard s).withFlr
        { (feedHeard s).flr with framesDiscarded := satInc s.flr.framesDiscarded }))) ∧
  (∀ (s : State) (type tag : Byte) (p : List Byte), FeedHears s type tag p →
    (type ≠ 0x21 ∨ p.length = 0 ∨ byteAt p 0 = 0 ∨ 8 < (byteAt p 0).toNat ∨ p.length ≠ 1 + 15 * (byteAt p 0).toNat) →
    exec (.feedFrameDiscard type tag p) s = .next ((feedHeard s).withFlr
      { (feedHeard s).flr with framesDiscarded := satInc s.flr.framesDiscarded }))

/-! ### The Evaluator -/

/-- The arbiter grants nothing while the Evaluator is busy or no source waits. Otherwise it grants the first waiting source and moves the
pointer past it: a query opens its context, and a fix meets the start checks, which refuse it, accept it or admit its object (R73 to R79,
R87, R164). A grant with no source or a busy Evaluator leaves the state (log entry 4), and a TABLE_FULL reply is formed after its ADMIT_REFUSED
report (log entry 21). -/
def Obligations.GrantsAreOpened : Prop :=
  ∀ s : State, s.resetn = true →
    let answers := fun t => exec .arbiterGrant s = .next t
    (s.ev.context.isSome = true → answers s) ∧
    ((∀ src, ¬ Waits s src) → answers s) ∧
    (s.ev.context = none →
      let opened := fun (t : State) (job : Job) => t.withEv
        { t.ev with context := some { job := job, void := 0, raw := Table.fill 64 .unset, walk := 0 } }
      let opens := fun (t : State) (f : Fix) (job : SlotNo → Job) (refused : Result → State → State) =>
        (∀ i, HoldsId s i f.id →
          let sl := s.slots.get i
          (sl.phase = .retiring → answers (idled (refused .objectState t))) ∧
          (sl.phase ≠ .retiring → sl.lastFix = none → answers (opened t (job i))) ∧
          (∀ last, sl.phase ≠ .retiring → sl.lastFix = some last →
            let ahead := (f.time - last.time).toNat
            (1 ≤ ahead → ahead ≤ 2147483647 → answers (opened t (job i))) ∧
            ((ahead = 0 ∨ 2147483647 < ahead) → answers (idled (refused .staleFix
              (t.withSlots (s.slots.set i { sl with stale := satInc sl.stale }))))))) ∧
        (Unknown s f.id →
          (s.params.autoAdmit = false → answers (idled (refused .noObject t))) ∧
          (s.params.autoAdmit = true →
            ((∀ j, (s.slots.get j).phase ≠ .free) →
              answers (idled (refused .tableFull (t.withEq (s.eq.report .admitRefused f.id s.params.sysEventPrio))))) ∧
            ∀ i, LowestFree s i → answers (opened (t.withSlots (s.slots.set i
              { phase := .tracked, id := f.id, cls := f.cls, lastFix := none, inside := 0, run := Table.fill 64 0, toldSet := 0,
                toldQuiet := false, stale := 0, dirty := false, cause := .none,
                quietTimer := startedTimer s.params.quietTime, retireTimer := .stopped })) (job i))))
      (∀ tag q, FirstWaiting s .query → s.hlc.querySlot = .waiting tag q →
        answers (opened ((s.withEv { s.ev with pointer := .feed }).withHlc { s.hlc with querySlot := .granted tag q })
          (.query q s.zs.generation))) ∧
      (∀ f rest, FirstWaiting s .feed → s.flr.queue = f :: rest →
        opens ((s.withEv { s.ev with pointer := .hostFix }).withFlr
            { s.flr with queue := rest, fhold := fholdAt rest.length s.flr.fhold })
          f (fun i => .feedFix i f) (fun _ t => feedFixCounted t)) ∧
      (∀ tag f, FirstWaiting s .hostFix → s.hlc.fixSlot = .waiting tag f →
        opens ((s.withEv { s.ev with pointer := .query }).withHlc { s.hlc with fixSlot := .granted tag f })
          f (fun i => .hostFix i f) (fun r t => fixEnds tag r [] t)))

/-- A fix completion whose slot still holds the object writes its results: the last fix, the class, the timers, and for every zone that is not
void the dwell filter on the raw result of its present record; the group is queued whole or the object is dirty; a host fix is answered; and
the Evaluator is idle (R80 to R86, R89, R93 to R97, R107, R108). The reply is formed after the group is handed over, so its PENDING and DIRTY show
it (R86, R142; log entry 21). -/
def Obligations.FixCompletionWrites : Prop :=
  ∀ (s : State) (c : Context) (i : SlotNo) (f : Fix), s.resetn = true → s.ev.context = some c → c.sound s.zs → ObjectsSound s →
    let sl := s.slots.get i
    (sl.phase = .tracked ∨ sl.phase = .quiet) → sl.id = f.id →
    ∃ (inside : ZoneSet) (run : Table Nat 64),
      (∀ z,
        (inSet c.void z = true ∨ (s.zs.active.get z).isLive = false → inSet inside z = inSet sl.inside z ∧ run.get z = sl.run.get z) ∧
        (∀ g a st, inSet c.void z = false → s.zs.active.get z = .live g a st →
          (c.job = .hostFix i f ∨ c.job = .feedFix i f) →
          DwellTable (liveRaw s g a f.x f.y f.cls) (inSet sl.inside z) (sl.run.get z) a.enterCount.toNat a.exitCount.toNat
            (inSet inside z) (run.get z))) ∧
      let written : Slot := { sl with
        phase := .tracked, cls := f.cls, lastFix := some ⟨f.time, f.x, f.y, f.quality⟩, inside := inside, run := run,
        quietTimer := startedTimer s.params.quietTime, retireTimer := .stopped }
      let events := completionEvents s sl inside f
      let ends := fun (queued : Nat) (dirty : Bool) (t : State) =>
        (c.job = .feedFix i f → exec .fixCompletion s = .next (idled t)) ∧
        (∀ tag g, c.job = .hostFix i f → s.hlc.fixSlot = .granted tag g →
          exec .fixCompletion s = .next (idled (fixEnds tag .ok
            ([1] ++ beBytes 8 inside.toNat ++ [BitVec.ofNat 8 queued, if dirty then 1 else 0]) t)))
      (c.job = .hostFix i f ∨ c.job = .feedFix i f →
        (events = [] → ends 0 sl.dirty (s.withSlots (s.slots.set i written))) ∧
        (events ≠ [] → sl.dirty = true → ends 0 true (s.withSlots (s.slots.set i written))) ∧
        (events ≠ [] → sl.dirty = false → events.length ≤ s.eq.free →
          ends events.length false ((s.withSlots (s.slots.set i written.upToDate)).withEq (joined s.eq events))) ∧
        (events ≠ [] → sl.dirty = false → s.eq.free < events.length →
          ends 0 true ((s.withSlots (s.slots.set i { written with dirty := true })).withDirty (s.dirty ++ [i]))))

/-- A fix completion whose slot no longer holds the object, or holds it RETIRING, is discarded whole; and with no fix in evaluation the command
does nothing (R82, R83, R89; log entry 4). -/
def Obligations.FixCompletionDiscards : Prop :=
  ∀ s : State, s.resetn = true →
    (s.ev.context = none → exec .fixCompletion s = .next s) ∧
    ∀ c, s.ev.context = some c →
      (∀ q g, c.job = .query q g → exec .fixCompletion s = .next s) ∧
      ∀ i f, (s.slots.get i).id ≠ f.id ∨ (s.slots.get i).phase = .free ∨ (s.slots.get i).phase = .retiring →
        (c.job = .feedFix i f → exec .fixCompletion s = .next (idled (feedFixCounted s))) ∧
        (∀ tag g, c.job = .hostFix i f → s.hlc.fixSlot = .granted tag g →
          exec .fixCompletion s = .next (idled (fixEnds tag .objectState [] s)))

/-- A query completion reports the zones inside, the void set and the generation at the start, and leaves every object alone; with no query
in evaluation the command does nothing (R80, R81, R88, R89; log entry 4). -/
def Obligations.QueryCompletionReports : Prop :=
  ∀ s : State, s.resetn = true →
    (s.ev.context = none → exec .queryCompletion s = .next s) ∧
    ∀ c, s.ev.context = some c →
      (∀ i f, (c.job = .hostFix i f ∨ c.job = .feedFix i f) → exec .queryCompletion s = .next s) ∧
      ∀ q g tag q', c.job = .query q g → s.hlc.querySlot = .granted tag q' → c.sound s.zs →
        ∃ inside : ZoneSet,
          exec .queryCompletion s = .next (idled (queryEnds tag .ok
            (beBytes 8 inside.toNat ++ beBytes 8 c.void.toNat ++ beBytes 2 g.toNat) s)) ∧
          ∀ z, inSet inside z = true ↔ inSet c.void z = false ∧
            ∃ geo a st, s.zs.active.get z = .live geo a st ∧ liveRaw s geo a q.x q.y q.cls = true

/-! ### Invariants -/

/-- The invariants hold in the state after reset. -/
def Obligations.InvariantsHoldAtReset : Prop :=
  StoreSound State.reset ∧ WalkSound State.reset ∧ CountersObey State.reset ∧ ObjectsSound State.reset ∧
  QueueSound State.reset.eq ∧ EventsWellMade State.reset ∧ LinksSound State.reset

/-- Every step keeps each vertex block in exactly one of its four places, the records and drafts legal, and an evaluation in flight in
agreement with the plan (R18, R21, R23, R25, R81). -/
def Obligations.StepsKeepTheStoreSound : Prop :=
  ∀ s t : State, StoreSound s → WalkSound s → step s = .next t → StoreSound t ∧ WalkSound t

/-- Every step keeps the run counters and inside sets in obedience to the plan (R51). -/
def Obligations.StepsKeepTheCounters : Prop :=
  ∀ s t : State, CountersObey s → step s = .next t → CountersObey t

/-- Every step keeps the Object Table and the dirty list sound: a clean object has been told the truth, and a dirty one is on the list once
(R47, R49, R99, R100). -/
def Obligations.StepsKeepTheObjectsSound : Prop :=
  ∀ s t : State, ObjectsSound s → step s = .next t → ObjectsSound t

/-- Every step keeps the Event Queue within its bounds, its numbers unique, its pending list in order and each system kind pending at most
once (R111, R114, R116, R117, R125). -/
def Obligations.StepsKeepTheQueueSound : Prop :=
  ∀ s t : State, QueueSound s.eq → step s = .next t → QueueSound t.eq

/-- Every step keeps the events well made (R93, R112). -/
def Obligations.StepsKeepTheEventsWellMade : Prop :=
  ∀ s t : State, EventsWellMade s → step s = .next t → EventsWellMade t

/-- Every step keeps the reply queue, the deferred slots, HHOLD, the Fix Queue, FHOLD, the framers and the parameters within their rules
(R136, R144, R146, R147, R149, R150, R163, R164, R173). -/
def Obligations.StepsKeepTheLinksSound : Prop :=
  ∀ s t : State, LinksSound s → step s = .next t → LinksSound t
end

