-- ==== Sys2Proof/Laws/Framer.lean ====
section
/-! SUPPORT. The receiver without its bound: an examination always ends within it, so bytes can be followed one at a time (R136, R138). -/

namespace Sys2Proof.Machine

/-- What a frame in reception still owes: the bytes it lacks, at least 1. -/
def Framer.credit : Framer → Nat
  | .hunt => 0
  | .frame [] _ => 251
  | .frame (len :: body) _ => max 1 (len.toNat + 3 - (body.length + 1))

/-- A measure that every examined byte lowers. -/
def Framer.weight (f : Framer) (m : Nat) : Nat :=
  252 * (f.stored.length + m) + f.credit

theorem goodLen_le {len : Byte} (h : goodLen len = true) : len.toNat ≤ 248 := by
  simp [goodLen] at h
  exact h.2

/-- An examined byte lowers the measure, whatever it gives back to be examined again. -/
theorem Framer.byte_weight (f : Framer) (b : Byte) (m : Nat) :
    (f.byte b).1.weight ((f.byte b).2.2.length + m) + 1 ≤ f.weight (m + 1) := by
  cases f with
  | hunt =>
    simp only [Framer.byte]
    split <;> simp [Framer.weight, Framer.stored, Framer.credit] <;> omega
  | frame stored gap =>
    cases stored with
    | nil =>
      simp only [Framer.byte]
      split
      · rename_i h
        have := goodLen_le h
        simp only [Framer.weight, Framer.stored, Framer.credit, List.length_nil, List.length_cons]
        omega
      · simp only [Framer.weight, Framer.stored, Framer.credit, List.length_nil]
        omega
    | cons len body =>
      simp only [Framer.byte]
      split
      · rename_i h
        simp only [List.length_append, List.length_cons, List.length_nil] at h
        simp only [Framer.weight, Framer.stored, Framer.credit, List.cons_append, List.length_append, List.length_cons, List.length_nil]
        omega
      · split <;> simp only [Framer.weight, Framer.stored, Framer.credit, List.cons_append, List.length_append, List.length_cons,
          List.length_nil] <;> omega

/-- Bounds that reach the measure all give the same examination. -/
theorem Framer.examine_stable (n n' : Nat) (f : Framer) (bs : List Byte) (h : f.weight bs.length ≤ n) (h' : f.weight bs.length ≤ n') :
    Framer.examine n f bs = Framer.examine n' f bs := by
  induction n generalizing f bs n' with
  | zero =>
    cases bs with
    | nil => simp [Framer.examine]
    | cons b bs =>
      simp only [Framer.weight, List.length_cons] at h
      omega
  | succ n ih =>
    cases bs with
    | nil => simp [Framer.examine]
    | cons b bs =>
      cases n' with
      | zero =>
        simp only [Framer.weight, List.length_cons] at h'
        omega
      | succ n' =>
        have hw := f.byte_weight b bs.length
        simp only [List.length_cons] at h h'
        simp only [Framer.examine]
        rw [ih n' (f.byte b).1 ((f.byte b).2.2 ++ bs) (by rw [List.length_append]; omega) (by rw [List.length_append]; omega)]

/-- A framer that a line can have led to: its LEN byte was a good one (R134). -/
def Framer.opened (f : Framer) : Prop :=
  f.credit ≤ 252

theorem Framer.byte_opened {f : Framer} (h : f.opened) (b : Byte) : (f.byte b).1.opened := by
  cases f with
  | hunt =>
    simp only [Framer.byte, Framer.opened]
    split <;> simp [Framer.credit]
  | frame stored gap =>
    cases stored with
    | nil =>
      simp only [Framer.byte, Framer.opened]
      split
      · rename_i hb
        have := goodLen_le hb
        simp only [Framer.credit, List.length_nil]
        omega
      · simp [Framer.credit]
    | cons len body =>
      simp only [Framer.opened, Framer.credit] at h
      simp only [Framer.byte, Framer.opened]
      split
      · simp only [Framer.credit, List.cons_append, List.length_append, List.length_cons, List.length_nil]
        omega
      · split <;> simp [Framer.credit]

theorem Framer.weight_le_bound {f : Framer} (h : f.opened) (bs : List Byte) : f.weight bs.length ≤ f.bound bs := by
  simp only [Framer.opened] at h
  simp only [Framer.weight, Framer.bound]
  omega

@[simp] theorem Framer.receive_nil (f : Framer) : f.receive [] = (f, []) := by
  simp [Framer.receive, Framer.examine]

/-- One byte at a time: what it completes comes first, and the bytes it gives back go before those still to come (R138). -/
theorem Framer.receive_cons {f : Framer} (h : f.opened) (b : Byte) (bs : List Byte) :
    f.receive (b :: bs) =
      (((f.byte b).1.receive ((f.byte b).2.2 ++ bs)).1, (f.byte b).2.1 ++ ((f.byte b).1.receive ((f.byte b).2.2 ++ bs)).2) := by
  have hw := f.byte_weight b bs.length
  have hb := Framer.weight_le_bound h (b :: bs)
  have hb' := Framer.weight_le_bound (Framer.byte_opened h b) ((f.byte b).2.2 ++ bs)
  simp only [List.length_cons] at hb
  unfold Framer.receive
  cases hn : f.bound (b :: bs) with
  | zero => omega
  | succ n =>
    simp only [Framer.examine]
    rw [Framer.examine_stable n ((f.byte b).1.bound ((f.byte b).2.2 ++ bs)) (f.byte b).1 ((f.byte b).2.2 ++ bs)
      (by rw [List.length_append]; omega) hb']

/-- Bytes in two runs are received as one run. -/
theorem Framer.receive_append {f : Framer} (h : f.opened) (as bs : List Byte) :
    f.receive (as ++ bs) = (((f.receive as).1.receive bs).1, (f.receive as).2 ++ ((f.receive as).1.receive bs).2) := by
  generalize hw : f.weight as.length = w
  induction w using Nat.strongRecOn generalizing f as with
  | ind w ih =>
    cases as with
    | nil => simp
    | cons a as =>
      have hlt := f.byte_weight a as.length
      simp only [List.length_cons] at hw
      rw [List.cons_append, Framer.receive_cons h, Framer.receive_cons h, ← List.append_assoc,
        ih _ (by rw [List.length_append]; omega) (Framer.byte_opened h a) ((f.byte a).2.2 ++ as) rfl]
      simp [List.append_assoc]

end Sys2Proof.Machine
end

