-- ==== Sys2Proof/Laws/Geometry.lean ====
section
/-! SUPPORT. The edges of an outline by their numbers, and what one edge adds, in the words of R6 to R8. -/

namespace Sys2Proof.Machine

@[simp] theorem edges_length (vs : List Point) : (edges vs).length = vs.length := by
  cases vs <;> simp [edges]

/-- The edges of an outline are its edges by number, in order (R6). -/
theorem edges_eq (vs : List Point) : edges vs = (List.range vs.length).map (edgeAt vs) := by
  apply List.ext_getElem (by simp)
  intro i h1 h2
  have hi : i < vs.length := by simpa using h1
  cases vs with
  | nil => simp at hi
  | cons v vs =>
    simp only [edges, List.getElem_zip, List.getElem_map, List.getElem_range, edgeAt, List.tail_cons, List.getD_eq_getElem?_getD,
      List.getElem?_eq_getElem hi, Option.getD_some, List.length_cons]
    congr 1
    by_cases hlast : i < vs.length
    · rw [List.getElem_append_left hlast, Nat.mod_eq_of_lt (by omega)]
      simp [hlast]
    · have : i = vs.length := by simp at hi; omega
      subst this
      simp

/-- The test of an edge by its lower and upper end points is the condition of R7. -/
theorem crosses_iff (l u : Point) (x y : Int) : crosses l u x y = true ↔ CrossedBy l u x y := by
  unfold crosses edgeSide CrossedBy
  simp only [Bool.and_eq_true, decide_eq_true_eq, and_assoc]

/-- An edge is crossed only from the end with the smaller y to the end with the greater (R7). -/
theorem CrossedBy.lower_lt {l u : Point} {x y : Int} (h : CrossedBy l u x y) : l.y.toInt < u.y.toInt := by
  obtain ⟨h1, h2, -⟩ := h
  omega

/-- No edge is crossed both upward and downward (R7). -/
theorem not_crossed_both {a b : Point} {x y : Int} (h : CrossedBy a b x y) : ¬ CrossedBy b a x y := by
  intro k
  have h1 := h.lower_lt
  have h2 := k.lower_lt
  omega

/-- An edge adds 1 when it is crossed running upward, takes 1 away when it is crossed running downward, and else adds nothing (R6, R7, R8). -/
theorem contribution_eq (x y : Int) (a b : Point) :
    contribution x y (a, b) = if CrossedBy a b x y then 1 else if CrossedBy b a x y then -1 else 0 := by
  have hab : CrossedBy a b x y → a.y.toInt < b.y.toInt := CrossedBy.lower_lt
  have hba : CrossedBy b a x y → b.y.toInt < a.y.toInt := CrossedBy.lower_lt
  simp only [contribution, crosses_iff]
  rcases lt_trichotomy a.y.toInt b.y.toInt with h | h | h
  · rw [if_pos h, if_neg (c := CrossedBy b a x y) fun k => by have := hba k; omega]
  · rw [if_neg (by omega), if_neg (by omega), if_neg fun k => by have := hab k; omega, if_neg fun k => by have := hba k; omega]
  · rw [if_neg (by omega), if_pos h, if_neg (c := CrossedBy a b x y) fun k => by have := hab k; omega]

end Sys2Proof.Machine
end

