-- ==== Sys2Proof/Laws/State.lean ====
section
/-! SUPPORT. What each named update of the state leaves in each field. -/

namespace Sys2Proof.Machine

variable (s : State)

@[simp] theorem State.withPending_pending (v : List Instr) : (s.withPending v).pending = v := rfl
@[simp] theorem State.withPending_resetn (v : List Instr) : (s.withPending v).resetn = s.resetn := rfl
@[simp] theorem State.withPending_partTime (v : List Instr) : (s.withPending v).partTime = s.partTime := rfl
@[simp] theorem State.withPending_paceIndex (v : List Instr) : (s.withPending v).paceIndex = s.paceIndex := rfl
@[simp] theorem State.withPending_zs (v : List Instr) : (s.withPending v).zs = s.zs := rfl
@[simp] theorem State.withPending_slots (v : List Instr) : (s.withPending v).slots = s.slots := rfl
@[simp] theorem State.withPending_ev (v : List Instr) : (s.withPending v).ev = s.ev := rfl
@[simp] theorem State.withPending_dirty (v : List Instr) : (s.withPending v).dirty = s.dirty := rfl
@[simp] theorem State.withPending_eq (v : List Instr) : (s.withPending v).eq = s.eq := rfl
@[simp] theorem State.withPending_hlc (v : List Instr) : (s.withPending v).hlc = s.hlc := rfl
@[simp] theorem State.withPending_flr (v : List Instr) : (s.withPending v).flr = s.flr := rfl
@[simp] theorem State.withPending_params (v : List Instr) : (s.withPending v).params = s.params := rfl
@[simp] theorem State.withPending_self : s.withPending s.pending = s := rfl

@[simp] theorem State.withResetn_pending (v : Bool) : (s.withResetn v).pending = s.pending := rfl
@[simp] theorem State.withResetn_resetn (v : Bool) : (s.withResetn v).resetn = v := rfl
@[simp] theorem State.withResetn_partTime (v : Bool) : (s.withResetn v).partTime = s.partTime := rfl
@[simp] theorem State.withResetn_paceIndex (v : Bool) : (s.withResetn v).paceIndex = s.paceIndex := rfl
@[simp] theorem State.withResetn_zs (v : Bool) : (s.withResetn v).zs = s.zs := rfl
@[simp] theorem State.withResetn_slots (v : Bool) : (s.withResetn v).slots = s.slots := rfl
@[simp] theorem State.withResetn_ev (v : Bool) : (s.withResetn v).ev = s.ev := rfl
@[simp] theorem State.withResetn_dirty (v : Bool) : (s.withResetn v).dirty = s.dirty := rfl
@[simp] theorem State.withResetn_eq (v : Bool) : (s.withResetn v).eq = s.eq := rfl
@[simp] theorem State.withResetn_hlc (v : Bool) : (s.withResetn v).hlc = s.hlc := rfl
@[simp] theorem State.withResetn_flr (v : Bool) : (s.withResetn v).flr = s.flr := rfl
@[simp] theorem State.withResetn_params (v : Bool) : (s.withResetn v).params = s.params := rfl
@[simp] theorem State.withResetn_self : s.withResetn s.resetn = s := rfl

@[simp] theorem State.withPartTime_pending (v : Nat) : (s.withPartTime v).pending = s.pending := rfl
@[simp] theorem State.withPartTime_resetn (v : Nat) : (s.withPartTime v).resetn = s.resetn := rfl
@[simp] theorem State.withPartTime_partTime (v : Nat) : (s.withPartTime v).partTime = v := rfl
@[simp] theorem State.withPartTime_paceIndex (v : Nat) : (s.withPartTime v).paceIndex = s.paceIndex := rfl
@[simp] theorem State.withPartTime_zs (v : Nat) : (s.withPartTime v).zs = s.zs := rfl
@[simp] theorem State.withPartTime_slots (v : Nat) : (s.withPartTime v).slots = s.slots := rfl
@[simp] theorem State.withPartTime_ev (v : Nat) : (s.withPartTime v).ev = s.ev := rfl
@[simp] theorem State.withPartTime_dirty (v : Nat) : (s.withPartTime v).dirty = s.dirty := rfl
@[simp] theorem State.withPartTime_eq (v : Nat) : (s.withPartTime v).eq = s.eq := rfl
@[simp] theorem State.withPartTime_hlc (v : Nat) : (s.withPartTime v).hlc = s.hlc := rfl
@[simp] theorem State.withPartTime_flr (v : Nat) : (s.withPartTime v).flr = s.flr := rfl
@[simp] theorem State.withPartTime_params (v : Nat) : (s.withPartTime v).params = s.params := rfl
@[simp] theorem State.withPartTime_self : s.withPartTime s.partTime = s := rfl

@[simp] theorem State.withPaceIndex_pending (v : Nat) : (s.withPaceIndex v).pending = s.pending := rfl
@[simp] theorem State.withPaceIndex_resetn (v : Nat) : (s.withPaceIndex v).resetn = s.resetn := rfl
@[simp] theorem State.withPaceIndex_partTime (v : Nat) : (s.withPaceIndex v).partTime = s.partTime := rfl
@[simp] theorem State.withPaceIndex_paceIndex (v : Nat) : (s.withPaceIndex v).paceIndex = v := rfl
@[simp] theorem State.withPaceIndex_zs (v : Nat) : (s.withPaceIndex v).zs = s.zs := rfl
@[simp] theorem State.withPaceIndex_slots (v : Nat) : (s.withPaceIndex v).slots = s.slots := rfl
@[simp] theorem State.withPaceIndex_ev (v : Nat) : (s.withPaceIndex v).ev = s.ev := rfl
@[simp] theorem State.withPaceIndex_dirty (v : Nat) : (s.withPaceIndex v).dirty = s.dirty := rfl
@[simp] theorem State.withPaceIndex_eq (v : Nat) : (s.withPaceIndex v).eq = s.eq := rfl
@[simp] theorem State.withPaceIndex_hlc (v : Nat) : (s.withPaceIndex v).hlc = s.hlc := rfl
@[simp] theorem State.withPaceIndex_flr (v : Nat) : (s.withPaceIndex v).flr = s.flr := rfl
@[simp] theorem State.withPaceIndex_params (v : Nat) : (s.withPaceIndex v).params = s.params := rfl
@[simp] theorem State.withPaceIndex_self : s.withPaceIndex s.paceIndex = s := rfl

@[simp] theorem State.withZs_pending (v : ZoneStore) : (s.withZs v).pending = s.pending := rfl
@[simp] theorem State.withZs_resetn (v : ZoneStore) : (s.withZs v).resetn = s.resetn := rfl
@[simp] theorem State.withZs_partTime (v : ZoneStore) : (s.withZs v).partTime = s.partTime := rfl
@[simp] theorem State.withZs_paceIndex (v : ZoneStore) : (s.withZs v).paceIndex = s.paceIndex := rfl
@[simp] theorem State.withZs_zs (v : ZoneStore) : (s.withZs v).zs = v := rfl
@[simp] theorem State.withZs_slots (v : ZoneStore) : (s.withZs v).slots = s.slots := rfl
@[simp] theorem State.withZs_ev (v : ZoneStore) : (s.withZs v).ev = s.ev := rfl
@[simp] theorem State.withZs_dirty (v : ZoneStore) : (s.withZs v).dirty = s.dirty := rfl
@[simp] theorem State.withZs_eq (v : ZoneStore) : (s.withZs v).eq = s.eq := rfl
@[simp] theorem State.withZs_hlc (v : ZoneStore) : (s.withZs v).hlc = s.hlc := rfl
@[simp] theorem State.withZs_flr (v : ZoneStore) : (s.withZs v).flr = s.flr := rfl
@[simp] theorem State.withZs_params (v : ZoneStore) : (s.withZs v).params = s.params := rfl
@[simp] theorem State.withZs_self : s.withZs s.zs = s := rfl

@[simp] theorem State.withSlots_pending (v : Table Slot 128) : (s.withSlots v).pending = s.pending := rfl
@[simp] theorem State.withSlots_resetn (v : Table Slot 128) : (s.withSlots v).resetn = s.resetn := rfl
@[simp] theorem State.withSlots_partTime (v : Table Slot 128) : (s.withSlots v).partTime = s.partTime := rfl
@[simp] theorem State.withSlots_paceIndex (v : Table Slot 128) : (s.withSlots v).paceIndex = s.paceIndex := rfl
@[simp] theorem State.withSlots_zs (v : Table Slot 128) : (s.withSlots v).zs = s.zs := rfl
@[simp] theorem State.withSlots_slots (v : Table Slot 128) : (s.withSlots v).slots = v := rfl
@[simp] theorem State.withSlots_ev (v : Table Slot 128) : (s.withSlots v).ev = s.ev := rfl
@[simp] theorem State.withSlots_dirty (v : Table Slot 128) : (s.withSlots v).dirty = s.dirty := rfl
@[simp] theorem State.withSlots_eq (v : Table Slot 128) : (s.withSlots v).eq = s.eq := rfl
@[simp] theorem State.withSlots_hlc (v : Table Slot 128) : (s.withSlots v).hlc = s.hlc := rfl
@[simp] theorem State.withSlots_flr (v : Table Slot 128) : (s.withSlots v).flr = s.flr := rfl
@[simp] theorem State.withSlots_params (v : Table Slot 128) : (s.withSlots v).params = s.params := rfl
@[simp] theorem State.withSlots_self : s.withSlots s.slots = s := rfl

@[simp] theorem State.withEv_pending (v : Evaluator) : (s.withEv v).pending = s.pending := rfl
@[simp] theorem State.withEv_resetn (v : Evaluator) : (s.withEv v).resetn = s.resetn := rfl
@[simp] theorem State.withEv_partTime (v : Evaluator) : (s.withEv v).partTime = s.partTime := rfl
@[simp] theorem State.withEv_paceIndex (v : Evaluator) : (s.withEv v).paceIndex = s.paceIndex := rfl
@[simp] theorem State.withEv_zs (v : Evaluator) : (s.withEv v).zs = s.zs := rfl
@[simp] theorem State.withEv_slots (v : Evaluator) : (s.withEv v).slots = s.slots := rfl
@[simp] theorem State.withEv_ev (v : Evaluator) : (s.withEv v).ev = v := rfl
@[simp] theorem State.withEv_dirty (v : Evaluator) : (s.withEv v).dirty = s.dirty := rfl
@[simp] theorem State.withEv_eq (v : Evaluator) : (s.withEv v).eq = s.eq := rfl
@[simp] theorem State.withEv_hlc (v : Evaluator) : (s.withEv v).hlc = s.hlc := rfl
@[simp] theorem State.withEv_flr (v : Evaluator) : (s.withEv v).flr = s.flr := rfl
@[simp] theorem State.withEv_params (v : Evaluator) : (s.withEv v).params = s.params := rfl
@[simp] theorem State.withEv_self : s.withEv s.ev = s := rfl

@[simp] theorem State.withDirty_pending (v : List SlotNo) : (s.withDirty v).pending = s.pending := rfl
@[simp] theorem State.withDirty_resetn (v : List SlotNo) : (s.withDirty v).resetn = s.resetn := rfl
@[simp] theorem State.withDirty_partTime (v : List SlotNo) : (s.withDirty v).partTime = s.partTime := rfl
@[simp] theorem State.withDirty_paceIndex (v : List SlotNo) : (s.withDirty v).paceIndex = s.paceIndex := rfl
@[simp] theorem State.withDirty_zs (v : List SlotNo) : (s.withDirty v).zs = s.zs := rfl
@[simp] theorem State.withDirty_slots (v : List SlotNo) : (s.withDirty v).slots = s.slots := rfl
@[simp] theorem State.withDirty_ev (v : List SlotNo) : (s.withDirty v).ev = s.ev := rfl
@[simp] theorem State.withDirty_dirty (v : List SlotNo) : (s.withDirty v).dirty = v := rfl
@[simp] theorem State.withDirty_eq (v : List SlotNo) : (s.withDirty v).eq = s.eq := rfl
@[simp] theorem State.withDirty_hlc (v : List SlotNo) : (s.withDirty v).hlc = s.hlc := rfl
@[simp] theorem State.withDirty_flr (v : List SlotNo) : (s.withDirty v).flr = s.flr := rfl
@[simp] theorem State.withDirty_params (v : List SlotNo) : (s.withDirty v).params = s.params := rfl
@[simp] theorem State.withDirty_self : s.withDirty s.dirty = s := rfl

@[simp] theorem State.withEq_pending (v : EventQueue) : (s.withEq v).pending = s.pending := rfl
@[simp] theorem State.withEq_resetn (v : EventQueue) : (s.withEq v).resetn = s.resetn := rfl
@[simp] theorem State.withEq_partTime (v : EventQueue) : (s.withEq v).partTime = s.partTime := rfl
@[simp] theorem State.withEq_paceIndex (v : EventQueue) : (s.withEq v).paceIndex = s.paceIndex := rfl
@[simp] theorem State.withEq_zs (v : EventQueue) : (s.withEq v).zs = s.zs := rfl
@[simp] theorem State.withEq_slots (v : EventQueue) : (s.withEq v).slots = s.slots := rfl
@[simp] theorem State.withEq_ev (v : EventQueue) : (s.withEq v).ev = s.ev := rfl
@[simp] theorem State.withEq_dirty (v : EventQueue) : (s.withEq v).dirty = s.dirty := rfl
@[simp] theorem State.withEq_eq (v : EventQueue) : (s.withEq v).eq = v := rfl
@[simp] theorem State.withEq_hlc (v : EventQueue) : (s.withEq v).hlc = s.hlc := rfl
@[simp] theorem State.withEq_flr (v : EventQueue) : (s.withEq v).flr = s.flr := rfl
@[simp] theorem State.withEq_params (v : EventQueue) : (s.withEq v).params = s.params := rfl
@[simp] theorem State.withEq_self : s.withEq s.eq = s := rfl

@[simp] theorem State.withHlc_pending (v : HostLink) : (s.withHlc v).pending = s.pending := rfl
@[simp] theorem State.withHlc_resetn (v : HostLink) : (s.withHlc v).resetn = s.resetn := rfl
@[simp] theorem State.withHlc_partTime (v : HostLink) : (s.withHlc v).partTime = s.partTime := rfl
@[simp] theorem State.withHlc_paceIndex (v : HostLink) : (s.withHlc v).paceIndex = s.paceIndex := rfl
@[simp] theorem State.withHlc_zs (v : HostLink) : (s.withHlc v).zs = s.zs := rfl
@[simp] theorem State.withHlc_slots (v : HostLink) : (s.withHlc v).slots = s.slots := rfl
@[simp] theorem State.withHlc_ev (v : HostLink) : (s.withHlc v).ev = s.ev := rfl
@[simp] theorem State.withHlc_dirty (v : HostLink) : (s.withHlc v).dirty = s.dirty := rfl
@[simp] theorem State.withHlc_eq (v : HostLink) : (s.withHlc v).eq = s.eq := rfl
@[simp] theorem State.withHlc_hlc (v : HostLink) : (s.withHlc v).hlc = v := rfl
@[simp] theorem State.withHlc_flr (v : HostLink) : (s.withHlc v).flr = s.flr := rfl
@[simp] theorem State.withHlc_params (v : HostLink) : (s.withHlc v).params = s.params := rfl
@[simp] theorem State.withHlc_self : s.withHlc s.hlc = s := rfl

@[simp] theorem State.withFlr_pending (v : FeedLink) : (s.withFlr v).pending = s.pending := rfl
@[simp] theorem State.withFlr_resetn (v : FeedLink) : (s.withFlr v).resetn = s.resetn := rfl
@[simp] theorem State.withFlr_partTime (v : FeedLink) : (s.withFlr v).partTime = s.partTime := rfl
@[simp] theorem State.withFlr_paceIndex (v : FeedLink) : (s.withFlr v).paceIndex = s.paceIndex := rfl
@[simp] theorem State.withFlr_zs (v : FeedLink) : (s.withFlr v).zs = s.zs := rfl
@[simp] theorem State.withFlr_slots (v : FeedLink) : (s.withFlr v).slots = s.slots := rfl
@[simp] theorem State.withFlr_ev (v : FeedLink) : (s.withFlr v).ev = s.ev := rfl
@[simp] theorem State.withFlr_dirty (v : FeedLink) : (s.withFlr v).dirty = s.dirty := rfl
@[simp] theorem State.withFlr_eq (v : FeedLink) : (s.withFlr v).eq = s.eq := rfl
@[simp] theorem State.withFlr_hlc (v : FeedLink) : (s.withFlr v).hlc = s.hlc := rfl
@[simp] theorem State.withFlr_flr (v : FeedLink) : (s.withFlr v).flr = v := rfl
@[simp] theorem State.withFlr_params (v : FeedLink) : (s.withFlr v).params = s.params := rfl
@[simp] theorem State.withFlr_self : s.withFlr s.flr = s := rfl

@[simp] theorem State.withParams_pending (v : Params) : (s.withParams v).pending = s.pending := rfl
@[simp] theorem State.withParams_resetn (v : Params) : (s.withParams v).resetn = s.resetn := rfl
@[simp] theorem State.withParams_partTime (v : Params) : (s.withParams v).partTime = s.partTime := rfl
@[simp] theorem State.withParams_paceIndex (v : Params) : (s.withParams v).paceIndex = s.paceIndex := rfl
@[simp] theorem State.withParams_zs (v : Params) : (s.withParams v).zs = s.zs := rfl
@[simp] theorem State.withParams_slots (v : Params) : (s.withParams v).slots = s.slots := rfl
@[simp] theorem State.withParams_ev (v : Params) : (s.withParams v).ev = s.ev := rfl
@[simp] theorem State.withParams_dirty (v : Params) : (s.withParams v).dirty = s.dirty := rfl
@[simp] theorem State.withParams_eq (v : Params) : (s.withParams v).eq = s.eq := rfl
@[simp] theorem State.withParams_hlc (v : Params) : (s.withParams v).hlc = s.hlc := rfl
@[simp] theorem State.withParams_flr (v : Params) : (s.withParams v).flr = s.flr := rfl
@[simp] theorem State.withParams_params (v : Params) : (s.withParams v).params = v := rfl
@[simp] theorem State.withParams_self : s.withParams s.params = s := rfl

end Sys2Proof.Machine
end

