-- ==== Sys2Proof/Laws/Wire.lean ====
section
/-! SUPPORT. Laws of byte fields and of zone sets. -/

namespace Sys2Proof.Machine

@[simp] theorem beBytes_length (n v : Nat) : (beBytes n v).length = n := by
  induction n with
  | zero => rfl
  | succ n ih => simp [beBytes, ih]

/-- The number read back from big-endian bytes is the number written, modulo the field's range. -/
theorem beNat_beBytes_mod (n v : Nat) : beNat (beBytes n v) = v % 256 ^ n := by
  induction n with
  | zero => simp [beBytes, beNat, Nat.mod_one]
  | succ n ih =>
    simp only [beBytes, beNat, beBytes_length, ih, BitVec.toNat_ofNat]
    have h : 256 ^ (n + 1) = 256 ^ n * 256 := Nat.pow_succ ..
    rw [h, Nat.mod_mul, Nat.add_comm, Nat.mul_comm]

theorem beNat_lt (bs : List Byte) : beNat bs < 256 ^ bs.length := by
  induction bs with
  | nil => simp [beNat]
  | cons b bs ih =>
    have hb : b.toNat < 256 := b.isLt
    simp only [beNat, List.length_cons, Nat.pow_succ]
    nlinarith [Nat.pow_pos (n := bs.length) (show 0 < 256 by decide)]

@[simp] theorem inSet_zonesWhere (f : ZoneId → Bool) (z : ZoneId) : inSet (zonesWhere f) z = f z := by
  simp [inSet, zonesWhere]

@[simp] theorem mem_zonesOf (s : ZoneSet) (z : ZoneId) : z ∈ zonesOf s ↔ inSet s z = true := by
  simp [zonesOf]

theorem zonesOf_nodup (s : ZoneSet) : (zonesOf s).Nodup :=
  (List.nodup_finRange 64).filter _

/-- A set without the zones of another. -/
@[simp] theorem inSet_minus (s t : ZoneSet) (z : ZoneId) : inSet (s &&& ~~~t) z = (inSet s z && !inSet t z) := by
  simp [inSet, z.isLt]

@[simp] theorem inSet_union (s t : ZoneSet) (z : ZoneId) : inSet (s ||| t) z = (inSet s z || inSet t z) := by
  simp [inSet]

@[simp] theorem inSet_inter (s t : ZoneSet) (z : ZoneId) : inSet (s &&& t) z = (inSet s z && inSet t z) := by
  simp [inSet]

@[simp] theorem inSet_empty (z : ZoneId) : inSet 0 z = false := by
  simp [inSet]

/-- The set of one zone. -/
@[simp] theorem inSet_twoPow (y z : ZoneId) : inSet (BitVec.twoPow 64 y.val) z = decide (y = z) := by
  have h := z.isLt
  simp [inSet, Fin.ext_iff]
  omega

/-- Two sets with the same zones are equal. -/
theorem zoneSet_ext {s t : ZoneSet} (h : ∀ z, inSet s z = inSet t z) : s = t := by
  apply BitVec.eq_of_getLsbD_eq
  intro i hi
  exact h ⟨i, hi⟩

/-- A zone id byte names a zone exactly when it is below 64 (R22). -/
theorem zoneIdOf_eq_some (b : Byte) (z : ZoneId) : zoneIdOf b = some z ↔ b.toNat = z.val := by
  unfold zoneIdOf
  split
  · simp [Fin.ext_iff]
  · have := z.isLt
    simp
    omega

end Sys2Proof.Machine
end

