-- ==== Sys2Proof/Laws/Ops.lean ====
section
/-! SUPPORT. For each shared operation, what it can do, said once: the lemmas that later proofs cite in place of unfolding. -/

namespace Sys2Proof.Machine

/-! ### Replies -/

@[simp] theorem formReply_pending (type tag : Byte) (r : Result) (b : List Byte) (s : State) :
    (formReply type tag r b s).pending = s.pending := rfl
@[simp] theorem formReply_resetn (type tag : Byte) (r : Result) (b : List Byte) (s : State) :
    (formReply type tag r b s).resetn = s.resetn := rfl
@[simp] theorem formReply_paceIndex (type tag : Byte) (r : Result) (b : List Byte) (s : State) :
    (formReply type tag r b s).paceIndex = s.paceIndex := rfl
@[simp] theorem formReply_zs (type tag : Byte) (r : Result) (b : List Byte) (s : State) :
    (formReply type tag r b s).zs = s.zs := rfl
@[simp] theorem formReply_slots (type tag : Byte) (r : Result) (b : List Byte) (s : State) :
    (formReply type tag r b s).slots = s.slots := rfl
@[simp] theorem formReply_ev (type tag : Byte) (r : Result) (b : List Byte) (s : State) :
    (formReply type tag r b s).ev = s.ev := rfl
@[simp] theorem formReply_dirty (type tag : Byte) (r : Result) (b : List Byte) (s : State) :
    (formReply type tag r b s).dirty = s.dirty := rfl
@[simp] theorem formReply_eq (type tag : Byte) (r : Result) (b : List Byte) (s : State) :
    (formReply type tag r b s).eq = s.eq := rfl
@[simp] theorem formReply_flr (type tag : Byte) (r : Result) (b : List Byte) (s : State) :
    (formReply type tag r b s).flr = s.flr := rfl
@[simp] theorem formReply_params (type tag : Byte) (r : Result) (b : List Byte) (s : State) :
    (formReply type tag r b s).params = s.params := rfl
@[simp] theorem formReply_replies (type tag : Byte) (r : Result) (b : List Byte) (s : State) :
    (formReply type tag r b s).hlc.replies = s.hlc.replies ++ [⟨type + 0x80, tag, r, s.replyFlags, b⟩] := rfl
@[simp] theorem formReply_framer (type tag : Byte) (r : Result) (b : List Byte) (s : State) :
    (formReply type tag r b s).hlc.framer = s.hlc.framer := rfl
@[simp] theorem formReply_fixSlot (type tag : Byte) (r : Result) (b : List Byte) (s : State) :
    (formReply type tag r b s).hlc.fixSlot = s.hlc.fixSlot := rfl
@[simp] theorem formReply_querySlot (type tag : Byte) (r : Result) (b : List Byte) (s : State) :
    (formReply type tag r b s).hlc.querySlot = s.hlc.querySlot := rfl

/-- No entry of the reply queue is free exactly when it holds 6 replies or more (R149). -/
theorem freeEntries_eq_zero (h : HostLink) : h.freeEntries = 0 ↔ 6 ≤ h.replies.length := by
  unfold HostLink.freeEntries
  omega

/-- An immediate request with no entry free is discarded (R151). -/
theorem immediate_full {s : State} (type tag : Byte) (ok : Bool) (run : State → Answer) (h : 6 ≤ s.hlc.replies.length) :
    immediate type tag ok run s = dropRequest s := by
  simp [immediate, (freeEntries_eq_zero _).2 h]

/-- An immediate request of a bad length is answered and reaches no owner (R139). -/
theorem immediate_badLength {s : State} (type tag : Byte) (run : State → Answer) (h : s.hlc.replies.length < 6) :
    immediate type tag false run s = formReply type tag .badLength [] s := by
  have : s.hlc.freeEntries ≠ 0 := by rw [Ne, freeEntries_eq_zero]; omega
  simp [immediate, this]

/-- An immediate request of a good length is executed and answered in the same step (R143). -/
theorem immediate_runs {s : State} (type tag : Byte) (run : State → Answer) (h : s.hlc.replies.length < 6) :
    immediate type tag true run s = formReply type tag (run s).2.1 (run s).2.2 (run s).1 := by
  have : s.hlc.freeEntries ≠ 0 := by rw [Ne, freeEntries_eq_zero]; omega
  simp [immediate, this]

/-- The end of a deferred request's evaluation: nothing without a granted request, else a reply formed or held (R146). -/
theorem finishDeferred_cases (d : DeferredSlot) (r : Result) (b : List Byte) (s : State) :
    (s.hlc.grantedTag d = none ∧ finishDeferred d r b s = s) ∨
    (∃ tag, s.hlc.grantedTag d = some tag ∧
      ((6 ≤ s.hlc.replies.length ∧ finishDeferred d r b s = s.withHlc (s.hlc.holdReply d tag r b)) ∨
       (s.hlc.replies.length < 6 ∧ finishDeferred d r b s = formReply d.type tag r b (s.withHlc (s.hlc.emptySlot d))))) := by
  unfold finishDeferred
  split
  · exact .inl ⟨by assumption, rfl⟩
  · refine .inr ⟨_, by assumption, ?_⟩
    split
    · rename_i h
      exact .inl ⟨(freeEntries_eq_zero _).1 h, rfl⟩
    · rename_i h
      rw [freeEntries_eq_zero] at h
      exact .inr ⟨by omega, rfl⟩

/-! ### Commands -/

theorem whenRunning_high {s : State} (f : State → State) (h : s.resetn = true) : whenRunning f s = f s := by
  simp [whenRunning, h]

theorem whenRunning_low {s : State} (f : State → State) (h : s.resetn = false) : whenRunning f s = s := by
  simp [whenRunning, h]

/-- A host frame that is heard is decoded with the receiver in HUNT (R136, R139). -/
theorem hostFrame_heard {s : State} {type tag : Byte} {p : List Byte} (request : State → State)
    (hp : p.length ≤ 246) (he : s.hlc.framer.expects (frameTail type tag p) = true) :
    hostFrame type tag p request s = request (s.withHostFramer .hunt) := by
  simp [hostFrame, sendable, hp, he]

/-- The command of a host frame that is heard by the running part. -/
theorem hostCommand_heard {s : State} {type tag : Byte} {p : List Byte} (request : State → State) (hr : s.resetn = true)
    (hp : p.length ≤ 246) (he : s.hlc.framer.expects (frameTail type tag p) = true) :
    hostCommand type tag p request s = .next (request (s.withHostFramer .hunt)) := by
  rw [hostCommand, whenRunning_high _ hr, hostFrame_heard _ hp he]

@[simp] theorem withHostFramer_replies (s : State) (f : Framer) : (s.withHostFramer f).hlc.replies = s.hlc.replies := rfl

/-! ### The event queue -/

/-- An event takes its place between those that stay before it and those it stands before (R116). -/
theorem insertEvent_split (e : Event) (list : List Event) :
    ∃ front back, list = front ++ back ∧ insertEvent e list = front ++ e :: back ∧
      (∀ x ∈ front, e.before x = false) ∧ (∀ x, back.head? = some x → e.before x = true) := by
  induction list with
  | nil => exact ⟨[], [], rfl, rfl, by simp, by simp⟩
  | cons y ys ih =>
    unfold insertEvent
    split
    · rename_i h
      exact ⟨[], y :: ys, rfl, rfl, by simp, by simpa using h⟩
    · rename_i h
      obtain ⟨front, back, h1, h2, h3, h4⟩ := ih
      refine ⟨y :: front, back, by simp [h1], by simp [h2], ?_, h4⟩
      intro x hx
      rcases List.mem_cons.1 hx with rfl | hx
      · simpa using h
      · exact h3 x hx

/-- Nothing is lost and nothing else comes in by an insertion. -/
theorem insertEvent_perm (e : Event) (list : List Event) : (insertEvent e list).Perm (e :: list) := by
  induction list with
  | nil => exact List.Perm.refl _
  | cons y ys ih =>
    unfold insertEvent
    split
    · exact List.Perm.refl _
    · exact (ih.cons y).trans (List.Perm.swap e y ys)

@[simp] theorem insertEvent_length (e : Event) (list : List Event) : (insertEvent e list).length = list.length + 1 := by
  simpa using (insertEvent_perm e list).length_eq

theorem mem_insertEvent (e x : Event) (list : List Event) : x ∈ insertEvent e list ↔ x = e ∨ x ∈ list := by
  rw [(insertEvent_perm e list).mem_iff, List.mem_cons]

@[simp] theorem join_held (q : EventQueue) (k : EventKind) (p : BitVec 3) : (q.join k p).held = q.held := rfl
@[simp] theorem join_armed (q : EventQueue) (k : EventKind) (p : BitVec 3) : (q.join k p).armed = q.armed := rfl
@[simp] theorem join_mask (q : EventQueue) (k : EventKind) (p : BitVec 3) : (q.join k p).mask = q.mask := rfl
@[simp] theorem join_admitWaiting (q : EventQueue) (k : EventKind) (p : BitVec 3) : (q.join k p).admitWaiting = q.admitWaiting := rfl
@[simp] theorem join_admitFirstId (q : EventQueue) (k : EventKind) (p : BitVec 3) : (q.join k p).admitFirstId = q.admitFirstId := rfl
@[simp] theorem join_overrunWaiting (q : EventQueue) (k : EventKind) (p : BitVec 3) :
    (q.join k p).overrunWaiting = q.overrunWaiting := rfl
@[simp] theorem join_nextArrival (q : EventQueue) (k : EventKind) (p : BitVec 3) : (q.join k p).nextArrival = q.nextArrival + 1 := rfl
@[simp] theorem join_waiting_length (q : EventQueue) (k : EventKind) (p : BitVec 3) :
    (q.join k p).waiting.length = q.waiting.length + 1 := by
  simp [EventQueue.join]

/-- A join takes one free entry (R111). -/
theorem join_free (q : EventQueue) (k : EventKind) (p : BitVec 3) : (q.join k p).free = q.free - 1 := by
  simp only [EventQueue.free, join_waiting_length, join_held]
  omega

/-- The search for a number stops at a value that no queued event carries, unless it has made all its steps (R114). -/
theorem stepSeq_fresh (q : EventQueue) (n : Nat) (v : BitVec 16) :
    q.carries (q.stepSeq n v) = false ∨ q.stepSeq n v = v + BitVec.ofNat 16 n := by
  induction n generalizing v with
  | zero => right; simp [EventQueue.stepSeq]
  | succ n ih =>
    unfold EventQueue.stepSeq
    split
    · rcases ih (v + 1) with h | h
      · exact .inl h
      · right
        rw [h]
        apply BitVec.eq_of_toNat_eq
        simp [BitVec.toNat_add]
        omega
    · rename_i h
      exact .inl (by simpa using h)

/-! ### The Object Table -/

/-- The slot found for an id is not FREE and holds it (R47). -/
theorem findObject_some {slots : Table Slot 128} {id : ObjId} {i : SlotNo} (h : findObject slots id = some i) :
    (slots.get i).phase ≠ .free ∧ (slots.get i).id = id := by
  have := List.find?_some h
  simpa using this

/-- No slot is found exactly for an unknown id (R47). -/
theorem findObject_none {slots : Table Slot 128} {id : ObjId} :
    findObject slots id = none ↔ ∀ i, (slots.get i).phase ≠ .free → (slots.get i).id ≠ id := by
  simp [findObject, List.find?_eq_none]

/-- The one slot that is not FREE and holds an id is found (R47). -/
theorem findObject_of_unique {slots : Table Slot 128} {id : ObjId} {i : SlotNo}
    (h1 : (slots.get i).phase ≠ .free) (h2 : (slots.get i).id = id)
    (h3 : ∀ j, (slots.get j).phase ≠ .free → (slots.get j).id = id → j = i) : findObject slots id = some i := by
  cases hf : findObject slots id with
  | none => exact absurd h2 (findObject_none.1 hf i h1)
  | some j =>
    obtain ⟨a, b⟩ := findObject_some hf
    rw [h3 j a b]

/-- No FREE slot is found exactly when none is FREE (R54). -/
theorem lowestFree_none {slots : Table Slot 128} : lowestFree slots = none ↔ ∀ i, (slots.get i).phase ≠ .free := by
  simp [lowestFree, List.find?_eq_none]

theorem lowestFree_some {slots : Table Slot 128} {i : SlotNo} (h : lowestFree slots = some i) : (slots.get i).phase = .free := by
  have := List.find?_some h
  simpa using this

/-! ### The Reporter -/

/-- What a change of the Reporter leaves alone: everything but the slots, the dirty list and the Event Queue. -/
def SameBesides (s t : State) : Prop :=
  t.pending = s.pending ∧ t.resetn = s.resetn ∧ t.partTime = s.partTime ∧ t.paceIndex = s.paceIndex ∧ t.zs = s.zs ∧ t.ev = s.ev ∧
  t.hlc = s.hlc ∧ t.flr = s.flr ∧ t.params = s.params

theorem SameBesides.refl (s : State) : SameBesides s s :=
  ⟨rfl, rfl, rfl, rfl, rfl, rfl, rfl, rfl, rfl⟩

theorem SameBesides.trans {s t u : State} (h : SameBesides s t) (k : SameBesides t u) : SameBesides s u := by
  obtain ⟨a1, a2, a3, a4, a5, a6, a7, a8, a9⟩ := h
  obtain ⟨b1, b2, b3, b4, b5, b6, b7, b8, b9⟩ := k
  exact ⟨b1.trans a1, b2.trans a2, b3.trans a3, b4.trans a4, b5.trans a5, b6.trans a6, b7.trans a7, b8.trans a8, b9.trans a9⟩

theorem queueNotice_same (i : SlotNo) (s : State) (n : Notice) : SameBesides s (queueNotice i s n) := by
  cases n <;> exact SameBesides.refl s

theorem queueGroup_same (i : SlotNo) (group : List Notice) (s : State) : SameBesides s (queueGroup i group s) := by
  induction group generalizing s with
  | nil => exact SameBesides.refl s
  | cons n group ih => exact (queueNotice_same i s n).trans (ih _)

/-- A queued group takes as many entries as it has events, and leaves the held list (R94). -/
theorem queueGroup_counts (i : SlotNo) (group : List Notice) (s : State) :
    (queueGroup i group s).eq.waiting.length = s.eq.waiting.length + group.length ∧ (queueGroup i group s).eq.held = s.eq.held := by
  induction group generalizing s with
  | nil => exact ⟨rfl, rfl⟩
  | cons n group ih =>
    have h : (queueNotice i s n).eq.waiting.length = s.eq.waiting.length + 1 ∧ (queueNotice i s n).eq.held = s.eq.held := by
      cases n <;> simp [queueNotice, freeSlot]
    obtain ⟨h1, h2⟩ := ih (queueNotice i s n)
    refine ⟨?_, by rw [← h.2]; exact h2⟩
    rw [List.length_cons]
    show (queueGroup i group (queueNotice i s n)).eq.waiting.length = _
    omega

theorem clearDirty_same (i : SlotNo) (s : State) : SameBesides s (clearDirty i s) :=
  SameBesides.refl s

theorem reconcileRounds_same (n : Nat) (s : State) : SameBesides s (reconcileRounds n s) := by
  induction n generalizing s with
  | zero => exact SameBesides.refl s
  | succ n ih =>
    unfold reconcileRounds
    split
    · exact SameBesides.refl s
    · dsimp only
      split
      · exact (queueGroup_same _ _ s).trans (ih _)
      · exact SameBesides.refl s

/-- The reconciler moves nothing but slots, the dirty list and the Event Queue. -/
theorem reconcile_same (s : State) : SameBesides s (reconcile s) :=
  reconcileRounds_same _ s

theorem markDirty_same (i : SlotNo) (s : State) : SameBesides s (markDirty i s) := by
  unfold markDirty
  dsimp only
  split
  · exact reconcile_same _
  · exact SameBesides.refl s

/-- The four things a fresh group can come to: it was empty, it is queued whole, the object was dirty already, or it becomes dirty
(R94, R97). -/
theorem freshGroup_cases (i : SlotNo) (group : List Notice) (s : State) :
    (group = [] ∧ freshGroup i group s = s) ∨
    (group ≠ [] ∧ (s.slots.get i).dirty = false ∧ group.length ≤ s.eq.free ∧ freshGroup i group s = queueGroup i group s) ∨
    (group ≠ [] ∧ (s.slots.get i).dirty = true ∧ freshGroup i group s = s) ∨
    (group ≠ [] ∧ (s.slots.get i).dirty = false ∧ s.eq.free < group.length ∧ freshGroup i group s = markDirty i s) := by
  cases group with
  | nil => exact .inl ⟨rfl, rfl⟩
  | cons n group =>
    right
    cases hd : (s.slots.get i).dirty with
    | true => exact .inr (.inl ⟨by simp, rfl, by simp [freshGroup, groupFits, hd]⟩)
    | false =>
      by_cases hf : (n :: group).length ≤ s.eq.free
      · exact .inl ⟨by simp, rfl, hf, by simp only [freshGroup, groupFits, hd]; simp at hf; simp [hf]⟩
      · refine .inr (.inr ⟨by simp, rfl, by omega, ?_⟩)
        simp at hf
        simp only [freshGroup, groupFits, hd]
        simp
        intro h
        omega

/-- A fresh group moves nothing but slots, the dirty list and the Event Queue. -/
theorem freshGroup_same (i : SlotNo) (group : List Notice) (s : State) : SameBesides s (freshGroup i group s) := by
  rcases freshGroup_cases i group s with ⟨-, h⟩ | ⟨-, -, -, h⟩ | ⟨-, -, h⟩ | ⟨-, -, -, h⟩ <;> rw [h]
  · exact SameBesides.refl s
  · exact queueGroup_same i group s
  · exact SameBesides.refl s
  · exact markDirty_same i s

/-- The work of a freed entry moves nothing but slots, the dirty list and the Event Queue (R126). -/
theorem entryFreed_same (s : State) : SameBesides s (entryFreed s) :=
  reconcile_same _

/-! ### The Evaluator -/

/-- Becoming idle drops the context and frees the retiring list, and nothing else (R89). -/
theorem becomeIdle_spec (s : State) :
    (becomeIdle s).ev.context = none ∧ (becomeIdle s).ev.pointer = s.ev.pointer ∧
    (becomeIdle s).zs.freeList = s.zs.freeList ++ s.zs.retiring ∧ (becomeIdle s).zs.retiring = [] ∧
    (becomeIdle s).zs.active = s.zs.active ∧ (becomeIdle s).zs.draft = s.zs.draft ∧ (becomeIdle s).zs.pool = s.zs.pool ∧
    (becomeIdle s).slots = s.slots ∧ (becomeIdle s).eq = s.eq ∧ (becomeIdle s).hlc = s.hlc ∧ (becomeIdle s).flr = s.flr :=
  ⟨rfl, rfl, rfl, rfl, rfl, rfl, rfl, rfl, rfl, rfl, rfl⟩

/-- A zone's walk fills its own place and moves on (R80). -/
theorem walkZone_spec (zs : ZoneStore) (c : Context) (h : c.walk < 64) :
    (walkZone zs c).walk = c.walk + 1 ∧ (walkZone zs c).job = c.job ∧ (walkZone zs c).void = c.void ∧
    ∀ z : ZoneId, (walkZone zs c).raw.get z = if c.walk = z.val then rawCell zs c z else c.raw.get z := by
  simp only [walkZone, h, dite_true, true_and]
  intro z
  rw [Table.get_set]
  simp only [Fin.ext_iff]
  split
  · rename_i hz
    congr
  · rfl

end Sys2Proof.Machine
end

