-- ==== Sys2Proof/Laws/Timers.lean ====
section
/-! SUPPORT. What the Reporter's work leaves of the timers: those of every slot it does not free, and every held event. -/

namespace Sys2Proof.Machine

/-- Slot `j` has the same lifecycle state and timers in both states. -/
def SlotTimersKept (j : SlotNo) (s t : State) : Prop :=
  (t.slots.get j).phase = (s.slots.get j).phase ∧ (t.slots.get j).quietTimer = (s.slots.get j).quietTimer ∧
  (t.slots.get j).retireTimer = (s.slots.get j).retireTimer

theorem SlotTimersKept.refl (j : SlotNo) (s : State) : SlotTimersKept j s s :=
  ⟨rfl, rfl, rfl⟩

theorem SlotTimersKept.trans {j : SlotNo} {s t u : State} (h : SlotTimersKept j s t) (k : SlotTimersKept j t u) : SlotTimersKept j s u :=
  ⟨k.1.trans h.1, k.2.1.trans h.2.1, k.2.2.trans h.2.2⟩

/-- A change of the whole table, the dirty list or the queue that leaves slot `j` leaves its timers. -/
theorem SlotTimersKept.of_slot {j : SlotNo} {s t : State} (h : t.slots.get j = s.slots.get j) : SlotTimersKept j s t := by
  simp [SlotTimersKept, h]

theorem SlotTimersKept.modify (j i : SlotNo) (s : State) (f : Slot → Slot)
    (hf : ∀ sl, (f sl).phase = sl.phase ∧ (f sl).quietTimer = sl.quietTimer ∧ (f sl).retireTimer = sl.retireTimer) :
    SlotTimersKept j s (s.withSlots (s.slots.modify i f)) := by
  by_cases h : i = j
  · subst h
    simpa [SlotTimersKept] using hf _
  · exact .of_slot (by simp [h])

theorem told_timers (sl : Slot) (n : Notice) :
    (sl.told n).phase = sl.phase ∧ (sl.told n).quietTimer = sl.quietTimer ∧ (sl.told n).retireTimer = sl.retireTimer := by
  cases n <;> exact ⟨rfl, rfl, rfl⟩

/-- An event queued for slot `i` leaves the timers of every slot, but for slot `i` itself when RETIRED frees it (R95, R96). -/
theorem queueNotice_timers {i j : SlotNo} {n : Notice} (s : State) (h : j ≠ i ∨ ∀ c, n ≠ .retired c) :
    SlotTimersKept j s (queueNotice i s n) := by
  cases n with
  | retired c =>
    rcases h with h | h
    · exact .of_slot (by simp [queueNotice, freeSlot, Ne.symm h])
    · exact absurd rfl (h c)
  | resumed c => exact .modify j i _ _ fun sl => told_timers sl _
  | exit z c => exact .modify j i _ _ fun sl => told_timers sl _
  | enter z c => exact .modify j i _ _ fun sl => told_timers sl _
  | quiet c => exact .modify j i _ _ fun sl => told_timers sl _

theorem queueGroup_timers {i j : SlotNo} (group : List Notice) (s : State) (h : j ≠ i ∨ ∀ c, Notice.retired c ∉ group) :
    SlotTimersKept j s (queueGroup i group s) := by
  induction group generalizing s with
  | nil => exact .refl j s
  | cons n group ih =>
    refine (queueNotice_timers s ?_).trans (ih (queueNotice i s n) ?_)
    · exact h.imp_right fun h c hn => h c (by simp [hn])
    · exact h.imp_right fun h c hn => h c (by simp [hn])

/-- A catch-up group holds RETIRED only for a RETIRING object (R101). -/
theorem retired_mem_catchUpGroup {sl : Slot} {c : RetireCause} (h : Notice.retired c ∈ catchUpGroup sl) : sl.phase = .retiring := by
  simp only [catchUpGroup, exits, enters, List.mem_append, List.mem_map] at h
  rcases h with (((h | ⟨z, -, h⟩) | ⟨z, -, h⟩) | h) | h
  · split at h <;> simp at h
  · cases h
  · cases h
  · split at h <;> simp at h
  · split at h
    · assumption
    · simp at h

/-- The reconciler leaves the timers of every slot that is not RETIRING, and every held event (R104, R105). -/
theorem reconcileRounds_timers {j : SlotNo} (n : Nat) (s : State) (h : (s.slots.get j).phase ≠ .retiring) :
    SlotTimersKept j s (reconcileRounds n s) := by
  induction n generalizing s with
  | zero => exact .refl j s
  | succ n ih =>
    unfold reconcileRounds
    split
    · exact .refl j s
    · rename_i i _ _
      dsimp only
      split
      · have h1 : SlotTimersKept j s (queueGroup i (catchUpGroup (s.slots.get i)) s) := by
          refine queueGroup_timers _ s ?_
          by_cases hij : j = i
          · subst hij
            exact .inr fun c hc => h (retired_mem_catchUpGroup hc)
          · exact .inl hij
        have h2 := h1.trans (SlotTimersKept.modify j i _ (fun sl => { sl with dirty := false }) fun sl => ⟨rfl, rfl, rfl⟩)
        exact h2.trans (ih (clearDirty i (queueGroup i (catchUpGroup (s.slots.get i)) s)) (by rw [← h2.1] at h; exact h))
      · exact .refl j s

theorem reconcileRounds_held (n : Nat) (s : State) : (reconcileRounds n s).eq.held = s.eq.held := by
  induction n generalizing s with
  | zero => rfl
  | succ n ih =>
    unfold reconcileRounds
    split
    · rfl
    · dsimp only
      split
      · rw [ih]
        exact (queueGroup_counts _ _ s).2
      · rfl

theorem reconcile_timers {j : SlotNo} {s : State} (h : (s.slots.get j).phase ≠ .retiring) : SlotTimersKept j s (reconcile s) :=
  reconcileRounds_timers _ s h

@[simp] theorem reconcile_held (s : State) : (reconcile s).eq.held = s.eq.held :=
  reconcileRounds_held _ s

@[simp] theorem markDirty_held (i : SlotNo) (s : State) : (markDirty i s).eq.held = s.eq.held := by
  unfold markDirty
  dsimp only
  split
  · rw [reconcile_held]
    rfl
  · rfl

theorem markDirty_timers (i : SlotNo) {j : SlotNo} {s : State} (h : (s.slots.get j).phase ≠ .retiring) :
    SlotTimersKept j s (markDirty i s) := by
  have h1 : SlotTimersKept j s
      ((s.withSlots (s.slots.modify i fun sl => { sl with dirty := true })).withDirty (s.dirty ++ [i])) :=
    SlotTimersKept.modify j i s (fun sl => { sl with dirty := true }) fun sl => ⟨rfl, rfl, rfl⟩
  unfold markDirty
  dsimp only
  split
  · exact h1.trans (reconcile_timers (by rw [h1.1]; exact h))
  · exact h1

/-- A fresh group of slot `i` leaves the timers of every other slot that is not RETIRING (R94, R97). -/
theorem freshGroup_timers {i j : SlotNo} (group : List Notice) {s : State} (hij : j ≠ i) (h : (s.slots.get j).phase ≠ .retiring) :
    SlotTimersKept j s (freshGroup i group s) := by
  rcases freshGroup_cases i group s with ⟨-, e⟩ | ⟨-, -, -, e⟩ | ⟨-, -, e⟩ | ⟨-, -, -, e⟩ <;> rw [e]
  · exact .refl j s
  · exact queueGroup_timers group s (.inl hij)
  · exact .refl j s
  · exact markDirty_timers i h

@[simp] theorem freshGroup_held (i : SlotNo) (group : List Notice) (s : State) : (freshGroup i group s).eq.held = s.eq.held := by
  rcases freshGroup_cases i group s with ⟨-, e⟩ | ⟨-, -, -, e⟩ | ⟨-, -, e⟩ | ⟨-, -, -, e⟩ <;> rw [e]
  · exact (queueGroup_counts i group s).2
  · exact markDirty_held i s

/-- A timer expiry of slot `i` leaves the timers of every other slot that is not RETIRING, and every held event (R56, R59). -/
theorem expireSlot_timers {i j : SlotNo} {s : State} (hij : j ≠ i) (h : (s.slots.get j).phase ≠ .retiring) :
    SlotTimersKept j s (expireSlot s i) := by
  have other : ∀ sl : Slot, SlotTimersKept j s (s.withSlots (s.slots.set i sl)) := fun sl => .of_slot (by simp [Ne.symm hij])
  unfold expireSlot
  dsimp only
  split
  · exact (other _).trans (freshGroup_timers _ hij (by rw [(other _).1]; exact h))
  · split
    · exact (other _).trans (freshGroup_timers _ hij (by rw [(other _).1]; exact h))
    · exact .refl j s

@[simp] theorem expireSlot_held (s : State) (i : SlotNo) : (expireSlot s i).eq.held = s.eq.held := by
  unfold expireSlot becomeQuiet retireObject
  dsimp only
  split
  · simp
  · split <;> simp

end Sys2Proof.Machine
end

