-- ==== Sys2Proof/Tests/Slice0.lean ====
section
/-! SUPPORT. Small tests of single commands, each expected result taken from the spec's own tables and examples, the smoke tests of
WellFormed, and a witness for the premises of every obligation that has any. -/

namespace Sys2Proof.Machine.Tests

open Sys2Proof Sys2Proof.Machine

set_option Elab.async false

/-! ### Helpers -/

/-- The state a command leaves. -/
def after (c : Instr) (s : State) : State :=
  match exec c s with
  | .next t => t
  | .fault _ => s
  | .refused _ => s

/-- The reply a command places last. -/
def reply (c : Instr) (s : State) : Option Reply :=
  (after c s).hlc.replies.getLast?

/-- The state after reset with a BOX 0..10 as zone 4, class filter all, counts 1/1, priority 6, quiet policy DROP, in generation 3. -/
def boxRecord : ActiveRec :=
  .live (.box ⟨0, 0, 10, 10⟩) ⟨6, false, .drop, 0xFF, 1, 1⟩ 3

def zoned : State :=
  State.reset.withZs { ZoneStore.reset with active := (Table.fill 64 (.absent 0 0)).set 4 boxRecord, generation := 3 }

/-- A state with one object in slot 0. -/
def withObject (s : State) (sl : Slot) : State :=
  (s.withSlots (s.slots.set 0 sl)).withDirty (if sl.dirty then [0] else [])

/-- Object 5001, class 0, TRACKED, in no zone. -/
def tracked : Slot :=
  { Slot.empty with phase := .tracked, id := 5001, quietTimer := .running 5000 5000 }

/-- Object 5001 inside zone 4, as told. -/
def inZone : Slot :=
  { tracked with inside := 16, toldSet := 16, lastFix := some ⟨7, 1, 1, 9⟩ }

/-- Object 5001 QUIET, its retire timer due. -/
def quiet : Slot :=
  { Slot.empty with phase := .quiet, id := 5001, toldQuiet := true, retireTimer := .running 60000 60000 }

/-- Object 5001 RETIRING and dirty. -/
def retiring : Slot :=
  { Slot.empty with phase := .retiring, id := 5001, dirty := true, cause := .retire }

def aFix : Fix :=
  ⟨5001, 8, 1, 1, false, 0, 9⟩

def aReply : Reply :=
  ⟨0x81, 0, .ok, 0, []⟩

/-- A state whose reply queue is full. -/
def full : State :=
  State.reset.withHlc { State.reset.hlc with replies := List.replicate 6 aReply, hhold := true }

def quietEvent (seq : BitVec 16) (priority : BitVec 3) (arrival : Nat) : Event :=
  ⟨seq, .quiet 5001 .quiet none, priority, arrival, false⟩

/-- An Event Queue with seq 41 held, seq 40 redelivered and pending, and seq 42 pending (the example of section 6.9). -/
def someEvents : EventQueue :=
  { EventQueue.reset with
    waiting := [{ quietEvent 40 6 0 with redelivered := true }, quietEvent 42 3 2]
    held := [⟨quietEvent 41 3 1, .running 2000 2000⟩]
    nextSeq := 43
    nextArrival := 3 }

def queued : State :=
  State.reset.withEq someEvents

/-- A queue with a held FEED_OVERRUN, and a pending one beside it. -/
def overruns (n : Nat) : EventQueue :=
  { EventQueue.reset with
    waiting := (List.range n).map fun _ => ⟨9, .feedOverrun 2, 6, 5, false⟩
    held := [⟨⟨8, .feedOverrun 3, 6, 4, false⟩, .running 10 10⟩]
    nextSeq := 10
    nextArrival := 6 }

def evaluating (job : Job) (s : State) : State :=
  s.withEv { s.ev with context := some (Context.start job) }

/-! ### Frames -/

/-- R135: over the nine ASCII digits 1 to 9 the procedure gives 29B1H. -/
theorem test_crc_of_digits : crc16 [0x31, 0x32, 0x33, 0x34, 0x35, 0x36, 0x37, 0x38, 0x39] = 0x29B1 := by decide +kernel

/-- R134: a frame of no payload takes 6 bytes, from 0A5H and LEN 2 on. -/
theorem test_frame_of_ping : (frameBytes 0x01 0x50 []).length = 6 ∧ (frameBytes 0x01 0x50 []).take 4 = [0xA5, 2, 0x01, 0x50] := by
  decide +kernel

/-- The table has no bits. -/
theorem test_no_word_decodes : decodeTableWord 8 1 = none := rfl

/-! ### WellFormed smoke tests: each check refuses an ill-formed command -/

theorem test_ill_long_payload : (Instr.ping 0 (List.replicate 247 0)).wellFormed = false := by decide +kernel
theorem test_well_longest_payload : (Instr.ping 0 (List.replicate 246 0)).wellFormed = true := by decide +kernel
theorem test_ill_assigned_unknown : (Instr.unknownType 0x1E 0 []).wellFormed = false := by decide +kernel
theorem test_ill_good_crc : (Instr.hostFrameCrcFail (frameTail 0x01 0 [])).wellFormed = false := by decide +kernel
theorem test_ill_short_crc_frame : (Instr.feedFrameCrcFail [2, 0, 0, 0]).wellFormed = false := by decide +kernel
theorem test_ill_no_fix : (Instr.fixBatch 0 []).wellFormed = false := by decide +kernel
theorem test_ill_nine_fixes : (Instr.fixBatch 0 (List.replicate 9 aFix)).wellFormed = false := by decide +kernel
theorem test_ill_good_batch : (Instr.feedFrameDiscard 0x21 0 (fixBatchPayload [aFix])).wellFormed = false := by decide +kernel
theorem test_ill_good_len : (Instr.hostBadLen 0xA5).wellFormed = false ∧ (Instr.feedBadLen 2).wellFormed = false := by decide +kernel
theorem test_well_bad_len : (Instr.hostBadLen 1).wellFormed = true ∧ (Instr.feedBadLen 249).wellFormed = true := by decide +kernel

/-! ### Host requests -/

/-- R181, R133: the straps are read. -/
theorem test_pinReset_straps :
    (after (.pinReset true false) full).hlc.rate = .baud460800 ∧ (after (.pinReset true false) full).flr.rate = .baud115200 := by
  decide +kernel

/-- R152, R141: the echo, with FRESH in the first reply. -/
theorem test_ping_echo : reply (.ping 0x50 [1, 2]) State.reset = some ⟨0x81, 0x50, .ok, 0x01, [1, 2]⟩ := by decide +kernel

/-- R152: 33 bytes are too many. -/
theorem test_ping_long : (reply (.ping 0 (List.replicate 33 0)) State.reset).map Reply.result = some .badLength := by decide +kernel

/-- R177: the counters are placed in the report and then set to 0. -/
theorem test_status_clear :
    let s := State.reset.withFlr { State.reset.flr with fixesDiscarded := 0x0102 }
    (reply (.status 0 [1]) s).map (fun r => r.body.drop 22) = some [1, 2] ∧ (after (.status 0 [1]) s).flr.fixesDiscarded = 0 := by
  decide +kernel

/-- R176: an empty part has 512 free blocks. -/
theorem test_status_blocks : (reply (.status 0 [0]) State.reset).map (fun r => (r.body.length, field r.body 4 2)) = some (24, 512) := by
  decide +kernel

/-- R179: an occupied slot is answered ABORTED before the request's own reply, which carries FRESH. -/
theorem test_restart_aborts :
    let s := State.reset.withHlc { State.reset.hlc with fixSlot := .waiting 0x10 aFix, fresh := false }
    ((after (.restart 0x20 []) s).hlc.replies.map fun r => (r.tag, r.result, r.flags)) = [(0x10, .aborted, 0), (0x20, .ok, 1)] := by
  decide +kernel

/-- R173: QUIET_TIME reaches 600000, and 99 is not in its range. -/
theorem test_setParam_range :
    (after (.setParam 0 (3 :: beBytes 4 600000)) State.reset).params.quietTime = 600000 ∧
    (reply (.setParam 0 (3 :: beBytes 4 99)) State.reset).map Reply.result = some .badValue := by decide +kernel

/-- R175: QUIET_TIME's default is 5000. -/
theorem test_getParam_default : (reply (.getParam 0 [3]) State.reset).map Reply.body = some [3, 0, 0, 0x13, 0x88] := by decide +kernel

/-- R28: a box of width 0 is refused with BAD_SHAPE. -/
theorem test_defineZone_flat :
    (reply (.defineZone 0 ([4, 0, 0xC0, 0xFF, 0x11] ++ List.replicate 12 0)) State.reset).map Reply.result = some .badShape := by
  decide +kernel

/-- R29: a polygon definition becomes DEFINED_OPEN with no vertices. -/
theorem test_defineZone_open :
    (after (.defineZone 0 [4, 2, 0xC8, 0xFF, 0x12]) State.reset).zs.draft.get 4 =
      .opened .nonzero ⟨6, false, .drop, 0xFF, 1, 2⟩ 0 [] := by decide +kernel

/-- R33: an INHERIT entry over a LIVE record becomes AMENDED. -/
theorem test_amendZone_live :
    (after (.amendZone 0 [4, 0x30, 0x01, 0x23]) zoned).zs.draft.get 4 = .amended ⟨1, true, .hold, 1, 2, 3⟩ := by decide +kernel

/-- A state with zone 3 open and 7 vertices held in block 511. -/
def drafted : State :=
  State.reset.withZs { ZoneStore.reset with
    draft := (Table.fill 64 .inherit).set 3 (.opened .evenOdd ⟨0, false, .hold, 0xFF, 1, 1⟩ 7 [511])
    freeList := (List.finRange 512).dropLast }

/-- R31: the eighth vertex fills the last place, and the ninth takes the head of the free list. -/
theorem test_addVertices_takes_head :
    let t := after (.addVertices 0 ([3, 2] ++ [0, 0, 5, 0, 0, 6] ++ [0, 0, 7, 0, 0, 8])) drafted
    (t.zs.draft.get 3).chain = [511, 0] ∧ (t.zs.pool.get 511).get 7 = ⟨5, 6⟩ ∧ (t.zs.pool.get 0).get 0 = ⟨7, 8⟩ := by decide +kernel

/-- R32: an outline of extent 0 is refused. -/
theorem test_closeZone_flat : (reply (.closeZone 0 [3]) drafted).map Reply.result = some .badShape := by decide +kernel

/-- R13: the box reaches one past the greatest coordinates. -/
theorem test_boundingBox : boundingBox [⟨0, 0⟩, ⟨10, 0⟩, ⟨0, 8388607⟩] = ⟨0, 0, 11, 8388608⟩ := by decide +kernel

/-- The five-point star of section 1.7. -/
def star : List Point :=
  [⟨0, 100⟩, ⟨59, -81⟩, ⟨-95, 31⟩, ⟨95, 31⟩, ⟨-59, -81⟩]

/-- R9, R10, the star: its centre, which is enclosed twice, its top point and its notch, under both rules. -/
theorem test_fillInside_star :
    ([(0, 0), (0, 80), (0, -70)].map fun p => (fillInside .evenOdd star p.1 p.2, fillInside .nonzero star p.1 p.2)) =
      [(false, true), (true, true), (false, false)] := by decide +kernel

/-- R7, R8, the bow-tie of section 1.7 at (2, 5), (8, 5), (5, 5) and (5, 9), and the triangle 6 of section 1.6 at (5, 5), on its slope. -/
theorem test_fillInside_bowtie :
    ([(2, 5), (8, 5), (5, 5), (5, 9)].map fun p =>
      let vs : List Point := [⟨0, 0⟩, ⟨10, 10⟩, ⟨10, 0⟩, ⟨0, 10⟩]
      (crossingCount vs p.1 p.2, windingSum vs p.1 p.2)) = [(3, 1), (1, -1), (1, -1), (2, 0)] ∧
    fillInside .evenOdd [⟨0, 0⟩, ⟨10, 0⟩, ⟨0, 10⟩] 5 5 = false := by decide +kernel

/-- R34: an ABSENT id with an INHERIT entry has no zone. -/
theorem test_deleteZone_absent : (reply (.deleteZone 0 [3]) zoned).map Reply.result = some .noZone := by decide +kernel

/-- R35: the draft chains go to the tail of the free list. -/
theorem test_discardDraft_tail : (after (.discardDraft 0 []) drafted).zs.freeList.getLast? = some 511 := by decide +kernel

/-- R36, R66: with no draft there is NOTHING to commit; the deletion of zone 4 makes generation 4, and the object inside it leaves with ZONE_REMOVED, priority 6. -/
theorem test_commit_deletes :
    let s := withObject (zoned.withZs { zoned.zs with draft := (Table.fill 64 .inherit).set 4 .deleted }) inZone
    let t := after (.commit 0 []) s
    (t.zs.active.get 4 = .absent 4 6 ∧ (t.slots.get 0).inside = 0) ∧
    t.eq.waiting = [⟨0, .exit 5001 4 .zoneRemoved 4 none, 6, 0, false⟩] ∧
    (reply (.commit 0 []) zoned).map Reply.result = some .nothing := by decide +kernel

/-- R41, section 9.5: the ACTIVE view of zone 4. -/
theorem test_readZone_box :
    (reply (.readZone 0 [4, 0]) zoned).map Reply.body =
      some ([0, 2, 0, 0xC8, 0xFF, 0x11] ++ [0, 0, 0, 0] ++ [0, 0, 0, 0] ++ [0, 0, 0, 10] ++ [0, 0, 0, 10] ++ [0, 0] ++ [0, 3]) := by
  decide +kernel

/-- R43: a BOX has an empty list, so every first index is refused. -/
theorem test_readVertices_box : (reply (.readVertices 0 [4, 0, 0, 0]) zoned).map Reply.result = some .badValue := by decide +kernel

/-- R54, R48: the first declaration takes slot 0. -/
theorem test_declare_first :
    (reply (.declareObject 0 [0, 0, 0x13, 0x89, 7]) State.reset).map (fun r => (r.result, r.body)) = some (.ok, [0]) ∧
    ((after (.declareObject 0 [0, 0, 0x13, 0x89, 7]) State.reset).slots.get 0).id = 5001 := by decide +kernel

/-- R54: the id is held. -/
theorem test_declare_again :
    (reply (.declareObject 0 [0, 0, 0x13, 0x89, 7]) (withObject State.reset retiring)).map Reply.result = some .objectExists := by
  decide +kernel

/-- R61, R94: the group is EXIT 4 and RETIRED, and the slot is FREE at once. -/
theorem test_retire_group :
    let t := after (.retireObject 0 [0, 0, 0x13, 0x89, 0]) (withObject zoned inZone)
    (t.eq.waiting.map fun e => (e.kind, e.priority)) =
      [(.exit 5001 4 .retire 3 none, 6), (.retired 5001 .retire, 3)] ∧ (t.slots.get 0).phase = .free := by decide +kernel

/-- R60: a RETIRING slot cannot be retired, SILENT or not. -/
theorem test_retire_retiring :
    (reply (.retireObject 0 [0, 0, 0x13, 0x89, 1]) (withObject State.reset retiring)).map Reply.result = some .objectState := by
  decide +kernel

/-- R69, section 9.5: a body of 34 bytes with no counter. -/
theorem test_readObject_length :
    (reply (.readObject 0 [0, 0, 0x13, 0x89]) (withObject zoned inZone)).map (fun r => (r.body.length, r.body.take 4)) =
      some (34, [0, 1, 0, 1]) := by decide +kernel

/-- R70: one entry and "end". -/
theorem test_listObjects_one :
    (reply (.listObjects 0 [0]) (withObject zoned inZone)).map Reply.body = some [0xFF, 1, 0, 0, 0, 0x13, 0x89, 1] := by decide +kernel

/-- R144: the quality is judged before the tag. -/
theorem test_postFix_low : (reply (.postFix 0 (fixBytes { aFix with quality := 3 })) State.reset).map Reply.result = some .lowQuality := by
  decide +kernel

/-- R145: an accepted fix waits, even with the reply queue full. -/
theorem test_postFix_waits : (after (.postFix 9 (fixBytes aFix)) full).hlc.fixSlot = .waiting 9 aFix := by decide +kernel

/-- R144: a class above 7 is refused. -/
theorem test_query_class : (reply (.queryPoint 0 [0, 0, 1, 0, 0, 1, 8]) State.reset).map Reply.result = some .badValue := by decide +kernel

/-- R118: seq 40 is delivered, REDELIVERED set, and ATTN is disarmed. -/
theorem test_take_first :
    (reply (.takeEvent 0 [0]) queued).map Reply.body = some [0, 40, 3, 0x86, 0, 0, 0x13, 0x89, 5] ∧
    (after (.takeEvent 0 [0]) queued).eq.held.length = 2 := by decide +kernel

/-- R118: nothing is pending. -/
theorem test_take_empty : (reply (.takeEvent 0 [0]) State.reset).map Reply.result = some .empty := by decide +kernel

/-- R119: a redelivered pending event is released late, and a fresh one is not released. -/
theorem test_release_late :
    (reply (.releaseEvent 0 [0, 40]) queued).map Reply.result = some .okLate ∧
    (reply (.releaseEvent 0 [0, 42]) queued).map Reply.result = some .unknownSeq := by decide +kernel

/-- R119: a held event is released. -/
theorem test_release_held : (after (.releaseEvent 0 [0, 41]) queued).eq.held = [] := by decide +kernel

/-- R127, R128, the example of section 6.9: armed with priorities 6 and 7, the pending priority 6 asserts ATTN. -/
theorem test_arm_attn :
    (after (.armAttn 0 [0xC0, 1]) queued).attn = true ∧ (after (.armAttn 0 [0x80, 1]) queued).attn = false := by decide +kernel

/-- R139: 21H is no request of the host link. -/
theorem test_unknownType : reply (.unknownType 0x21 5 [1]) State.reset = some ⟨0xA1, 5, .unknownType, 1, []⟩ := by decide +kernel

/-! ### The lines -/

/-- R138: a noise start byte before a real frame costs one count, and the real frame is decoded. -/
theorem test_crcFail_finds_frame :
    let noise := [4, 0xA5] ++ (frameTail 0x01 0x33 [])
    failingFrame noise = true ∧ (after (.hostFrameCrcFail noise) State.reset).hlc.discarded = 1 ∧
    (reply (.hostFrameCrcFail noise) State.reset).map Reply.tag = some 0x33 := by decide +kernel

def receiving (gap : Nat) : State :=
  (State.reset.withHlc { State.reset.hlc with framer := .frame [2] gap }).withFlr { State.reset.flr with framer := .frame [2] gap }

/-- R137: the gap timer abandons the frame, and no sooner than at 10 ms (R1). -/
theorem test_hostGap : (after .hostGapTimeout (receiving 10)).hlc.framer = .hunt ∧ after .hostGapTimeout (receiving 9) = receiving 9 := by
  decide +kernel

/-- R137: a framing fault abandons the frame. -/
theorem test_hostFramingFault : (after .hostFramingFault (receiving 0)).hlc.framer = .hunt := by decide +kernel

/-- R149, R150: with 4 entries free HHOLD falls. -/
theorem test_replySent_hhold :
    let s := full.withHlc { full.hlc with replies := List.replicate 3 aReply }
    (after .replySent s).hlc.hhold = false ∧ (after .replySent full).hlc.hhold = true := by decide +kernel

/-- R147: a held reply takes the freed entry. -/
theorem test_replySent_held :
    let s := full.withHlc { full.hlc with fixSlot := .replyHeld 0x44 .staleFix [], heldOrder := [.fix] }
    ((after .replySent s).hlc.replies.getLast?).map (fun r => (r.type, r.tag, r.result)) = some (0x95, 0x44, .staleFix) ∧
    (after .replySent s).hlc.replies.length = 6 := by decide +kernel

/-- R136: 0A5H starts a frame in HUNT. -/
theorem test_hostFrameStart : (after .hostFrameStart State.reset).hlc.framer = .frame [] 0 := by decide +kernel

/-- R136: a bad LEN ends the frame and counts nothing. -/
theorem test_hostBadLen :
    let s := State.reset.withHlc { State.reset.hlc with framer := .frame [] 3 }
    (after (.hostBadLen 249) s).hlc.framer = .hunt ∧ (after (.hostBadLen 249) s).hlc.discarded = 0 := by decide +kernel

/-- R161, R163: a fix of quality 9 is appended, one of quality 3 counted. -/
theorem test_fixBatch :
    let t := after (.fixBatch 0 [aFix, { aFix with quality := 3 }]) State.reset
    t.flr.queue = [aFix] ∧ t.flr.fixesDiscarded = 1 := by decide +kernel

/-- R164, the example 25 to 29: FHOLD rises as the level reaches 28. -/
theorem test_fixBatch_fhold :
    let s := State.reset.withFlr { State.reset.flr with queue := List.replicate 25 aFix }
    (after (.fixBatch 0 [aFix, aFix]) s).flr.fhold = false ∧ (after (.fixBatch 0 [aFix, aFix, aFix]) s).flr.fhold = true := by
  decide +kernel

/-- R160: a request type on FRX is discarded whole. -/
theorem test_feedFrameDiscard : (after (.feedFrameDiscard 0x01 0 []) State.reset).flr.framesDiscarded = 1 := by decide +kernel

/-- R159: the CRC failure is counted. -/
theorem test_feedCrcFail : (after (.feedFrameCrcFail [2, 0, 0, 0, 0]) State.reset).flr.framesDiscarded = 1 := by decide +kernel

/-- R158: as on the host link. -/
theorem test_feedGap : (after .feedGapTimeout (receiving 10)).flr.framer = .hunt ∧ (after .feedGapTimeout (receiving 10)).hlc.framer ≠ .hunt := by
  decide +kernel

/-- R158. -/
theorem test_feedFramingFault : (after .feedFramingFault (receiving 0)).flr.framer = .hunt := by decide +kernel

/-- R157. -/
theorem test_feedFrameStart : (after .feedFrameStart State.reset).flr.framer = .frame [] 0 := by decide +kernel

/-- R157. -/
theorem test_feedBadLen : (after (.feedBadLen 0) (State.reset.withFlr { State.reset.flr with framer := .frame [] 0 })).flr.framer = .hunt := by
  decide +kernel

/-! ### The Evaluator and the timers -/

/-- A state in which the feed and the query slot wait, with the pointer at the host fix slot. -/
def waiting : State :=
  (zoned.withFlr { zoned.flr with queue := [aFix] }).withHlc { zoned.hlc with querySlot := .waiting 6 ⟨1, 1, 0⟩ }

/-- R73: the query slot comes before the Fix Queue, and the pointer moves past it. -/
theorem test_grant_order :
    let t := after .arbiterGrant waiting
    t.ev.pointer = .feed ∧ t.hlc.querySlot = .granted 6 ⟨1, 1, 0⟩ ∧ t.flr.queue = [aFix] := by decide +kernel

/-- R76: a fix time equal to the last is stale. -/
theorem test_grant_stale :
    let s := (withObject zoned inZone).withFlr { zoned.flr with queue := [{ aFix with time := 7 }] }
    ((after .arbiterGrant s).slots.get 0).stale = 1 ∧ (after .arbiterGrant s).ev.context = none := by decide +kernel

/-- R85, R86: with an enter count of 1 the fix puts the object in zone 4 at once. -/
theorem test_fixCompletion_enters :
    let t := after .fixCompletion (evaluating (.feedFix 0 aFix) (withObject zoned tracked))
    (t.slots.get 0).inside = 16 ∧ t.eq.waiting = [⟨0, .enter 5001 4 .fix 3 (some ⟨8, 1, 1⟩), 6, 0, false⟩] ∧
    t.ev.context = none := by decide +kernel

/-- R83: a RETIRING slot discards the completion. -/
theorem test_fixCompletion_discarded :
    (after .fixCompletion (evaluating (.feedFix 0 aFix) (withObject zoned retiring))).flr.fixesDiscarded = 1 := by decide +kernel

/-- R88: inside set, void set, generation. -/
theorem test_queryCompletion :
    let s := evaluating (.query ⟨1, 1, 0⟩ 3) (zoned.withHlc { zoned.hlc with querySlot := .granted 6 ⟨1, 1, 0⟩ })
    (reply .queryCompletion s).map Reply.body = some ([0, 0, 0, 0, 0, 0, 0, 16] ++ [0, 0, 0, 0, 0, 0, 0, 0] ++ [0, 3]) := by decide +kernel

/-- R4, R9, R10: at its centre the star as zone 10, NONZERO, holds the point, and as zone 9, EVEN_ODD, it does not. -/
theorem test_queryCompletion_star :
    let zone := fun rule => ActiveRec.live (.polygon rule 5 [7] (boundingBox star)) ⟨0, false, .hold, 0xFF, 1, 1⟩ 1
    let zs := { ZoneStore.reset with
      pool := writeVertices ZoneStore.reset.pool [7] 0 star
      active := ((Table.fill 64 (.absent 0 0)).set 9 (zone .evenOdd)).set 10 (zone .nonzero) }
    let s := evaluating (.query ⟨0, 0, 0⟩ 1) ((State.reset.withZs zs).withHlc { State.reset.hlc with querySlot := .granted 6 ⟨0, 0, 0⟩ })
    (reply .queryCompletion s).map (fun r => r.body.take 8) = some [0, 0, 0, 0, 0, 0, 4, 0] := by decide +kernel

/-- R56: the DROP zone is left and the object is QUIET. -/
theorem test_quietExpiry :
    let t := after (.quietExpiry 0) (withObject zoned inZone)
    ((t.slots.get 0).phase = .quiet ∧ (t.slots.get 0).inside = 0) ∧
    (t.eq.waiting.map fun e => e.kind) = [.exit 5001 4 .quiet 3 none, .quiet 5001 .quiet (some ⟨7, 1, 1⟩)] := by decide +kernel

/-- R59: RETIRED carries cause QUIET. -/
theorem test_retireExpiry :
    ((after (.retireExpiry 0) (withObject zoned quiet)).eq.waiting.map fun e => e.kind) = [.retired 5001 .quiet] := by decide +kernel

/-- R121, the example of section 6.9: seq 41 returns ahead of seq 42. -/
theorem test_redelivery :
    ((after (.redeliveryExpiry 41) queued).eq.waiting.map fun e => (e.seq, e.redelivered)) = [(40, true), (41, true), (42, false)] := by
  decide +kernel

/-- R125: the pending event queued after the returning one is absorbed by it. -/
theorem test_redelivery_merges :
    ((after (.redeliveryExpiry 8) (State.reset.withEq (overruns 1))).eq.waiting.map fun e => (e.seq, e.kind)) = [(8, .feedOverrun 5)] := by
  decide +kernel

/-- The state that a step on an empty queue leaves. -/
def afterIdle (s : State) : State :=
  match step s with
  | .next t => t
  | .fault _ => s
  | .refused _ => s

/-- R1: in a millisecond a running quiet timer counts 1, and one that has run its length expires no later than a millisecond after. -/
theorem test_millisecond_counts :
    ((afterIdle (withObject State.reset { tracked with quietTimer := .running 5000 4999 })).slots.get 0).quietTimer = .running 5000 5000 ∧
    ((afterIdle (withObject State.reset tracked)).slots.get 0).phase = .quiet := by decide +kernel

/-- R137, R158: the gap timers of both receivers count, and a redelivery timer counts. -/
theorem test_millisecond_counts_gaps :
    let s := (receiving 9).withEq { someEvents with held := [⟨quietEvent 41 3 1, .running 2000 7⟩] }
    (afterIdle s).hlc.framer = .frame [2] 10 ∧ (afterIdle s).flr.framer = .frame [2] 10 ∧
    (afterIdle s).eq.held.map Held.timer = [.running 2000 8] := by decide +kernel

/-- R181: HHOLD is deasserted. -/
theorem test_resetnLow : (after .resetnLow full).hholdPin = false ∧ (after .resetnLow full).htx = none := by decide +kernel

/-! ### Witnesses: for each obligation with premises, states and operands that meet them, each clause at its boundary values -/

/-- One object in slot 0 of an otherwise FREE table makes a sound table. -/
theorem oneObject_sound (s : State) (sl : Slot) (hslots : s.slots = (Table.fill 128 Slot.empty).set 0 sl)
    (hsound : sl.sound) (hdirty : s.dirty = if sl.dirty then [0] else []) (htold : sl.dirty = false → sl.toldTruth)
    (hqueue : ∀ f ∈ s.flr.queue, f.id ≠ 0) (hfix : ∀ tag f, s.hlc.fixSlot = .waiting tag f → f.id ≠ 0) : ObjectsSound s := by
  have hget : ∀ j, s.slots.get j = if (0 : SlotNo) = j then sl else Slot.empty := by
    intro j
    rw [hslots, Table.get_set, Table.get_fill]
  refine ⟨?_, ?_, ?_, ?_, ?_, hqueue, hfix⟩
  · intro i
    rw [hget]
    split
    · exact hsound
    · simp [Slot.sound, Slot.empty, Timer.within]
  · intro i j hi hj _
    rw [hget] at hi hj
    by_cases h0 : (0 : SlotNo) = i
    · by_cases h1 : (0 : SlotNo) = j
      · rw [← h0, ← h1]
      · simp [h1, Slot.empty] at hj
    · simp [h0, Slot.empty] at hi
  · rw [hdirty]
    split <;> simp
  · intro i
    rw [hget, hdirty]
    by_cases h0 : (0 : SlotNo) = i
    · subst h0
      rw [if_pos rfl]
      cases hc : sl.dirty <;> simp
    · have h1 : i ≠ 0 := fun h => h0 h.symm
      cases sl.dirty <;> simp [h0, h1, Slot.empty]
  · intro i hi hd
    rw [hget] at hi hd ⊢
    by_cases h0 : (0 : SlotNo) = i
    · simp only [h0, if_true] at hd ⊢
      exact htold hd
    · simp [h0, Slot.empty] at hi

/-- A state with one object, this plan, this Event Queue and this Evaluator. -/
def placed (sl : Slot) (zs : ZoneStore) (q : EventQueue) (ev : Evaluator) : State :=
  (((withObject State.reset sl).withZs zs).withEq q).withEv ev

theorem placed_sound (sl : Slot) (zs : ZoneStore) (q : EventQueue) (ev : Evaluator) (hsound : sl.sound)
    (htold : sl.dirty = false → sl.toldTruth) : ObjectsSound (placed sl zs q ev) :=
  oneObject_sound _ sl rfl hsound rfl htold (fun f hf => by cases hf) (fun tag f hf => by cases hf)

theorem tracked_sound (zs : ZoneStore) (q : EventQueue) (ev : Evaluator) : ObjectsSound (placed tracked zs q ev) :=
  placed_sound _ _ _ _ (by simp [Slot.sound, tracked, Slot.empty, Timer.within])
    (fun _ => by simp [Slot.toldTruth, tracked, Slot.empty])

theorem inZone_sound (zs : ZoneStore) (q : EventQueue) (ev : Evaluator) : ObjectsSound (placed inZone zs q ev) :=
  placed_sound _ _ _ _ (by simp [Slot.sound, inZone, tracked, Slot.empty, Timer.within])
    (fun _ => by simp [Slot.toldTruth, inZone, tracked, Slot.empty])

/-- Object 5001 inside zone 4, dirty: the controller has not been told. -/
def untold : Slot :=
  { inZone with toldSet := 0, dirty := true }

theorem untold_sound (zs : ZoneStore) (q : EventQueue) (ev : Evaluator) : ObjectsSound (placed untold zs q ev) :=
  placed_sound _ _ _ _ (by simp [Slot.sound, untold, inZone, tracked, Slot.empty, Timer.within])
    (fun h => by simp [untold] at h)

theorem quiet_sound (zs : ZoneStore) (q : EventQueue) (ev : Evaluator) : ObjectsSound (placed quiet zs q ev) :=
  placed_sound _ _ _ _ (by simp [Slot.sound, quiet, Slot.empty, Timer.within])
    (fun _ => by simp [Slot.toldTruth, quiet, Slot.empty])

theorem retiring_sound (zs : ZoneStore) (q : EventQueue) (ev : Evaluator) : ObjectsSound (placed retiring zs q ev) :=
  placed_sound _ _ _ _ (by simp [Slot.sound, retiring, Slot.empty, Timer.within])
    (fun h => by simp [retiring] at h)

/-- The Event Queue with every entry pending. -/
def crowded : EventQueue :=
  { EventQueue.reset with waiting := List.replicate 96 (quietEvent 0 3 0) }

/-- A pending FEED_OVERRUN older than the held one. -/
def olderPending : EventQueue :=
  { overruns 0 with
    waiting := [⟨9, .feedOverrun 2, 6, 3, true⟩]
    held := [⟨⟨8, .feedOverrun 3, 6, 4, false⟩, .running 10 10⟩] }

theorem someEvents_sound : QueueSound someEvents := by
  refine ⟨by decide, by decide, by decide, by decide, by decide, by decide, ?_, by decide, ?_, ?_, by decide⟩
  · intro h hh
    simp only [someEvents, List.mem_singleton] at hh
    exact ⟨2000, 2000, by rw [hh], Nat.le_refl _⟩
  · intro k; cases k <;> decide
  · intro k; cases k <;> decide

theorem overruns_sound (n : Nat) (hn : n ≤ 1) : QueueSound (overruns n) := by
  obtain rfl | rfl : n = 0 ∨ n = 1 := by omega
  all_goals
    refine ⟨by decide, by decide, by decide, by decide, by decide, by decide, ?_, by decide, ?_, ?_, by decide⟩
    · intro h hh
      simp only [overruns, List.mem_singleton] at hh
      exact ⟨10, 10, by rw [hh], Nat.le_refl _⟩
    · intro k; cases k <;> decide
    · intro k; cases k <;> decide

theorem olderPending_sound : QueueSound olderPending := by
  refine ⟨by decide, by decide, by decide, by decide, by decide, by decide, ?_, by decide, ?_, ?_, by decide⟩
  · intro h hh
    simp only [olderPending, List.mem_singleton] at hh
    exact ⟨10, 10, by rw [hh], Nat.le_refl _⟩
  · intro k; cases k <;> decide
  · intro k; cases k <;> decide

theorem witness_StepTakesTheFrontCommand :
    (State.reset.withPending [.replySent]).pending = .replySent :: [] := rfl

/-- An evaluation whose walk has passed zone 63. -/
def walked (job : Job) : State :=
  State.reset.withEv { State.reset.ev with context := some { Context.start job with walk := 64 } }

def aQuery : Query :=
  ⟨1, 1, 0⟩

theorem witness_EmptyQueueRunsOn :
    (State.reset.pending = [] ∧ (State.reset.withResetn false).resetn = false ∧ State.reset.resetn = true) ∧
    (State.reset.ev.context = none ∧ arbiterChoice State.reset = none) ∧
    (waiting.pending = [] ∧ waiting.resetn = true ∧ waiting.ev.context = none ∧ (arbiterChoice waiting).isSome = true) ∧
    ((walked (.feedFix 0 aFix)).ev.context.map Context.walk = some 64 ∧ (walked (.feedFix 0 aFix)).ev.ofQuery = false) ∧
    ((walked (.query aQuery 0)).ev.context.map Context.walk = some 64 ∧ (walked (.query aQuery 0)).ev.ofQuery = true) ∧
    ((evaluating (.feedFix 0 aFix) State.reset).ev.context.map Context.walk = some 0) := by
  decide +kernel

/-- Slots, held events and framers on both sides of the last millisecond of their timers; nothing expires in the first state, a quiet timer
alone in the second, a retire timer alone in the third. -/
theorem witness_EmptyQueueRunsOn_millisecond :
    (QueueSound queued.eq ∧ queued.pending = [] ∧ queued.resetn = true ∧ queued.ev.context = none ∧ arbiterChoice queued = none) ∧
    ((Timer.running 5000 4999).lasts = true ∧ (Timer.running 5000 5000).lasts = false ∧ Timer.stopped.lasts = true ∧
      (Framer.frame [2] 9).lasts = true ∧ (Framer.frame [2] 10).lasts = false) ∧
    (∃ s : State, s.pending = [] ∧ s.resetn = true ∧ s.ev.context = none ∧ arbiterChoice s = none ∧ (s.slots.get 0).phase = .tracked ∧
      (∀ i, (s.slots.get i).lasts = true) ∧ (∀ h ∈ s.eq.held, h.timer.lasts = true) ∧ s.hlc.framer.lasts = true ∧ s.flr.framer.lasts = true) ∧
    ∀ sl ∈ [tracked, quiet], ∃ s : State, s.pending = [] ∧ s.resetn = true ∧ s.ev.context = none ∧ arbiterChoice s = none ∧
      (s.slots.get 0).phase = sl.phase ∧ (s.slots.get 0).lasts = false ∧ (∀ j, j ≠ 0 → (s.slots.get j).lasts = true) ∧
      (∀ h ∈ s.eq.held, h.timer.lasts = true) ∧ s.hlc.framer.lasts = true ∧ s.flr.framer.lasts = true := by
  refine ⟨⟨someEvents_sound, by decide +kernel⟩, by decide,
    ⟨(receiving 9).withSlots (State.reset.slots.set 0 { tracked with quietTimer := .running 5000 4999 }), by decide +kernel⟩, ?_⟩
  intro sl hsl
  refine ⟨State.reset.withSlots (State.reset.slots.set 0 sl), rfl, rfl, rfl, rfl, ?_⟩
  simp only [List.mem_cons, List.not_mem_nil, or_false] at hsl
  rcases hsl with rfl | rfl <;> decide +kernel

theorem witness_HeldInReset :
    (State.reset.withResetn false).resetn = false ∧ (∀ h f, Instr.replySent ≠ .pinReset h f) ∧ Instr.replySent ≠ .resetnLow :=
  ⟨rfl, by intro h f; simp, by simp⟩

theorem witness_FullReplyQueueDiscards :
    (hostFrameOf (.ping 3 []) = some (0x01, 3, []) ∧ Hears full 0x01 3 [] ∧ ¬ HasRoom full ∧ (0x01 : Byte) ≠ 0x15 ∧ (0x01 : Byte) ≠ 0x1E) ∧
    (hostFrameOf (.postFix 3 []) = some (0x15, 3, []) ∧ Hears full 0x15 3 [] ∧ lengthAllowed 0x15 [] = false) := by
  decide +kernel

theorem witness_BadLengthRefused :
    hostFrameOf (.ping 3 (List.replicate 33 0)) = some (0x01, 3, List.replicate 33 0) ∧
    Hears State.reset 0x01 3 (List.replicate 33 0) ∧ HasRoom State.reset ∧ lengthAllowed 0x01 (List.replicate 33 0) = false := by
  decide +kernel

theorem witness_UnknownTypeRefused :
    Hears State.reset 0x21 3 (List.replicate 246 0) ∧ HasRoom State.reset ∧ assignedType 0x21 = false := by
  decide +kernel

theorem witness_OtherFramesComeByBytes :
    (State.reset.resetn = true ∧ (receiving 0).resetn = true) ∧
    (hostFrameOf (.ping 3 [0]) = some (0x01, 3, [0]) ∧ ¬ Hears (receiving 0) 0x01 3 [0]) ∧
    (feedFrameOf (.fixBatch 3 [aFix]) = some (0x21, 3, fixBatchPayload [aFix]) ∧ ¬ FeedHears (receiving 0) 0x21 3 (fixBatchPayload [aFix])) ∧
    ¬ Hears State.reset 0x01 3 (List.replicate 247 0) := by
  decide +kernel

theorem witness_FramesAreFound :
    ([] : List Byte).length ≤ 246 ∧ Framer.hunt.expects (frameTail 0x01 3 []) = true ∧
    (Framer.frame [2, 0x01, 3] 9).expects (frameTail 0x01 3 []) = true := by
  decide +kernel

theorem witness_CrcFailureIsExaminedAgain :
    State.reset.resetn = true ∧ failingFrame [3, 0, 0, 0, 0, 0] = true ∧ State.reset.hlc.framer.expects [3, 0, 0, 0, 0, 0] = true ∧
    (receiving 0).hlc.framer.expects [3, 0, 0, 0, 0, 0] = false ∧ State.reset.flr.framer.expects [3, 0, 0, 0, 0, 0] = true ∧
    (receiving 0).flr.framer.expects [3, 0, 0, 0, 0, 0] = false := by
  decide +kernel

theorem witness_LineEventsMoveTheFramers :
    (State.reset.resetn = true ∧ State.reset.hlc.framer = .hunt ∧ State.reset.flr.framer = .hunt) ∧
    ((receiving 10).hlc.framer = .frame [2] 10 ∧ (receiving 10).hlc.framer.phase = .body ∧ (receiving 9).flr.framer.phase = .body) ∧
    ((1 : Byte).toNat ≤ 1 ∧ 249 ≤ (249 : Byte).toNat ∧ (Framer.frame [] 0).phase = .length ∧ (Framer.frame [2, 0, 0] 0).phase = .check) := by
  decide +kernel

theorem witness_ReplySentFreesTheHead :
    State.reset.hlc.replies = [] ∧ (full.hlc.replies = aReply :: List.replicate 5 aReply ∧ full.hlc.heldOrder = []) ∧
    ∃ s t : State,
      (s.resetn = true ∧ s.hlc.replies = aReply :: List.replicate 5 aReply ∧ s.hlc.heldOrder = .fix :: [.query] ∧
        s.hlc.fixSlot = .replyHeld 1 .ok []) ∧
      (t.resetn = true ∧ t.hlc.replies = aReply :: List.replicate 5 aReply ∧ t.hlc.heldOrder = .query :: [] ∧
        t.hlc.querySlot = .replyHeld 2 .ok []) :=
  ⟨rfl, ⟨rfl, rfl⟩,
    full.withHlc { full.hlc with fixSlot := .replyHeld 1 .ok [], querySlot := .replyHeld 2 .ok [], heldOrder := [.fix, .query] },
    full.withHlc { full.hlc with querySlot := .replyHeld 2 .ok [], heldOrder := [.query] }, ⟨rfl, rfl, rfl, rfl⟩, ⟨rfl, rfl, rfl, rfl⟩⟩

/-- Both deferred slots occupied, with tags 1 and 2. -/
def occupied : State :=
  State.reset.withHlc { State.reset.hlc with fixSlot := .waiting 1 aFix, querySlot := .waiting 2 aQuery }

theorem witness_DeferredRequestsAreChecked :
    (Hears State.reset 0x15 3 (fixBytes aFix) ∧ (fixBytes aFix).length = 15 ∧ (fixOf (fixBytes aFix)) = aFix ∧
      State.reset.hlc.fixSlot = .empty ∧ ¬ (State.reset.hlc.fixSlot.tag? = some 3 ∨ State.reset.hlc.querySlot.tag? = some 3)) ∧
    ((fixOf (fixBytes { aFix with id := 0 })).id = 0 ∧ (fixOf (fixBytes { aFix with reserved := true })).reserved = true) ∧
    ((fixOf (fixBytes { aFix with quality := 3 })).quality.toNat < State.reset.params.minQuality.toNat ∧
      State.reset.params.minQuality.toNat ≤ (fixOf (fixBytes { aFix with quality := 4 })).quality.toNat) ∧
    (occupied.hlc.querySlot.tag? = some 2 ∧ occupied.hlc.fixSlot.tag? ≠ some 3 ∧ occupied.hlc.querySlot.tag? ≠ some 3 ∧
      occupied.hlc.fixSlot ≠ .empty ∧ occupied.hlc.querySlot ≠ .empty) ∧
    (Hears State.reset 0x1E 3 [0, 0, 1, 0, 0, 1, 7] ∧ (byteAt [0, 0, 1, 0, 0, 1, 7] 6).toNat ≤ 7 ∧
      7 < (byteAt [0, 0, 1, 0, 0, 1, 8] 6).toNat ∧ State.reset.hlc.querySlot = .empty) := by
  decide +kernel

theorem witness_PingEchoes :
    Hears State.reset 0x01 3 (List.replicate 32 0) ∧ HasRoom State.reset ∧ (List.replicate 32 (0 : Byte)).length ≤ 32 ∧
    Hears State.reset 0x01 3 (List.replicate 33 0) ∧ 32 < (List.replicate 33 (0 : Byte)).length ∧
    Hears full 0x01 3 [] ∧ ¬ HasRoom full := by
  decide +kernel

theorem witness_StatusReportsTheFigures :
    Hears queued 0x02 3 [1] ∧ HasRoom queued ∧ queued.zs.freeList.length ≤ 512 ∧ queued.zs.retiring.length ≤ 512 ∧
    queued.dirty.length ≤ 128 ∧ queued.eq.waiting.length ≤ 96 ∧ queued.eq.held.length ≤ 8 ∧ queued.flr.queue.length ≤ 32 := by
  decide +kernel

theorem witness_SetParamSetsOne :
    Hears State.reset 0x04 3 (7 :: beBytes 4 7) ∧ HasRoom State.reset ∧ paramAllows 7 7 = true ∧ paramAllows 3 0 = true ∧
    paramAllows 5 10 = true ∧ paramAllows 7 8 = false ∧ paramAllows 8 0 = false ∧ paramAllows 3 99 = false := by
  decide +kernel

theorem witness_GetParamReports :
    Hears State.reset 0x05 3 [7] ∧ HasRoom State.reset ∧ 7 < (8 : Byte).toNat ∧ Hears State.reset 0x05 3 [8] := by
  decide +kernel

theorem witness_RestartNeedsItsEntries :
    (Hears occupied 0x03 3 [] ∧ occupied.hlc.replies.length + 1 + occupiedSlots occupied ≤ 6 ∧ occupiedSlots occupied = 2) ∧
    (Hears State.reset 0x03 3 [0] ∧ HasRoom State.reset) ∧
    (Hears full 0x03 3 [] ∧ 6 < full.hlc.replies.length + 1 + occupiedSlots full) := by
  decide +kernel

theorem witness_ZoneIdAbove63Refused :
    hostFrameOf (.closeZone 3 [64]) = some (0x0B, 3, [64]) ∧ Hears State.reset 0x0B 3 [64] ∧ HasRoom State.reset ∧
    lengthAllowed 0x0B [64] = true ∧ 63 < (byteAt [64] 0).toNat ∧ lengthAllowed 0x0B [] = false ∧ Hears State.reset 0x0B 3 [] := by
  decide +kernel

def boxPayload (xmax : Byte) : List Byte :=
  [4, 0, 0xC8, 0xFF, 0x11] ++ [0, 0, 0] ++ [0, 0, 0] ++ [0, 0, xmax] ++ [0, 0, 1]

theorem witness_DefineZoneDrafts :
    (Hears State.reset 0x08 3 (boxPayload 1) ∧ HasRoom State.reset ∧ lengthAllowed 0x08 (boxPayload 1) = true ∧
      (boxAt (boxPayload 1) 5).xmin < (boxAt (boxPayload 1) 5).xmax ∧ (boxAt (boxPayload 0) 5).xmax ≤ (boxAt (boxPayload 0) 5).xmin) ∧
    (lengthAllowed 0x08 [63, 3, 0, 0, 0] = true ∧ lengthAllowed 0x08 [63, 2, 0, 0, 0x10] = true ∧
      (attrsAt [63, 2, 0, 0, 0x10] 2).exitCount = 0 ∧ (attrsAt [63, 2, 0, 0, 0x11] 2).exitCount ≠ 0 ∧
      (attrsAt [63, 2, 0, 0, 0x11] 2).enterCount ≠ 0) ∧
    (lengthAllowed 0x08 [64, 1, 0, 0, 0x11] = true ∧ 63 < (byteAt [64, 1, 0, 0, 0x11] 0).toNat) := by
  decide +kernel

/-- Zone 3 open, zone 4 LIVE with its entry as given. -/
def drafting (e : DraftEntry) : State :=
  zoned.withZs { zoned.zs with draft := (Table.fill 64 .inherit).set 4 e }

def anAttrs : Attrs :=
  ⟨1, false, .hold, 0xFF, 2, 2⟩

theorem witness_AmendZoneActs :
    (Hears zoned 0x09 3 [4, 0, 0, 0x11] ∧ HasRoom zoned ∧ (zoned.zs.draft.get 4) = .inherit ∧ (zoned.zs.active.get 4).isLive = true ∧
      (zoned.zs.active.get 5).isLive = false ∧ (attrsAt [4, 0, 0, 0x11] 1).enterCount ≠ 0 ∧ (attrsAt [4, 0, 0, 0x01] 1).enterCount = 0) ∧
    ((drafted.zs.draft.get 3).isOpen = true ∧ (drafting (.closed (.box ⟨0, 0, 1, 1⟩) anAttrs)).zs.draft.get 4 =
      .closed (.box ⟨0, 0, 1, 1⟩) anAttrs ∧ (drafting (.amended anAttrs)).zs.draft.get 4 = .amended anAttrs ∧
      (drafting .deleted).zs.draft.get 4 = .deleted) := by
  decide +kernel

/-- Zone 3 open with 511 vertices. -/
def nearlyFull : State :=
  State.reset.withZs { ZoneStore.reset with
    draft := (Table.fill 64 .inherit).set 3 (.opened .evenOdd anAttrs 511 ((List.finRange 512).take 64)), freeList := [] }

theorem witness_AddVerticesChecks :
    (Hears drafted 0x0A 3 ([3, 1] ++ List.replicate 6 0) ∧ HasRoom drafted ∧ lengthAllowed 0x0A ([3, 1] ++ List.replicate 6 0) = true ∧
      lengthAllowed 0x0A [3, 0] = true ∧ lengthAllowed 0x0A ([3, 17] ++ List.replicate 102 0) = true ∧ (drafted.zs.draft.get 4).isOpen = false) ∧
    (nearlyFull.zs.draft.get 3 = .opened .evenOdd anAttrs 511 ((List.finRange 512).take 64) ∧ 512 < 511 + 2) ∧
    (∃ s : State, s.zs.draft.get 3 = .opened .evenOdd anAttrs 8 [0] ∧ s.zs.freeList.length < blocksNeeded 8 1) :=
  ⟨by decide +kernel, by decide +kernel,
    State.reset.withZs { ZoneStore.reset with draft := (Table.fill 64 .inherit).set 3 (.opened .evenOdd anAttrs 8 [0]), freeList := [] },
    by decide +kernel, by decide +kernel⟩

/-- Zone 3 newly opened: every block is on the free list. -/
def opened : State :=
  State.reset.withZs { ZoneStore.reset with draft := (Table.fill 64 .inherit).set 3 (.opened .evenOdd anAttrs 0 []) }

theorem opened_sound : StoreSound opened ∧ WalkSound opened := by
  have hd : ∀ z, (opened.zs.draft.get z) = if (3 : ZoneId) = z then .opened .evenOdd anAttrs 0 [] else .inherit := by
    intro z
    simp [opened, State.withZs, Table.get_set]
  have ha : ∀ z, opened.zs.active.get z = .absent 0 0 := by
    intro z
    simp [opened, State.withZs, ZoneStore.reset]
  have hb : BlocksAccounted opened := by
    refine ⟨?_, fun _ => rfl⟩
    have h1 : opened.zs.activeChains = [] := by
      simp [ZoneStore.activeChains, ha, ActiveRec.chain]
    have h2 : opened.zs.draftChains = [] := by
      simp only [ZoneStore.draftChains, hd, List.flatMap_eq_nil_iff]
      intro z _
      split <;> rfl
    have h3 : opened.zs.freeList = List.finRange 512 := by rw [opened, State.withZs, ZoneStore.reset]
    have h4 : opened.zs.retiring = [] := rfl
    rw [ZoneStore.places, h1, h2, h3, h4, List.append_nil, List.append_nil, List.append_nil]
  refine ⟨⟨hb, ?_⟩, hb, fun c h => by cases h⟩
  intro z
  rw [ha, hd]
  refine ⟨trivial, ?_⟩
  split
  · exact ⟨by decide, by decide, by decide⟩
  · trivial

theorem witness_AddVerticesAppends :
    StoreSound opened ∧
    (Hears opened 0x0A 3 ([3, 16] ++ (List.replicate 16 (⟨5, 6⟩ : Point)).flatMap vertexBytes) ∧ HasRoom opened ∧
      opened.zs.draft.get 3 = .opened .evenOdd anAttrs 0 [] ∧ blocksNeeded 0 16 ≤ opened.zs.freeList.length) :=
  ⟨opened_sound.1, by decide +kernel⟩

/-- Zone 3 open over these vertices. -/
def outlined (vs : List Point) : State :=
  opened.withZs { opened.zs with
    pool := writeVertices opened.zs.pool [0] 0 vs, draft := opened.zs.draft.set 3 (.opened .evenOdd anAttrs vs.length [0]) }

theorem witness_CloseZoneCompletes :
    (Hears (outlined []) 0x0B 3 [3] ∧ HasRoom (outlined []) ∧ (State.reset.zs.draft.get 3).isOpen = false) ∧
    (let s := outlined [⟨0, 0⟩, ⟨4, 0⟩, ⟨0, 4⟩]
     s.zs.draft.get 3 = .opened .evenOdd anAttrs 3 [0] ∧ (verticesOf s.zs.pool [0] 3) = [⟨0, 0⟩, ⟨4, 0⟩, ⟨0, 4⟩]) ∧
    (let s := outlined [⟨0, 0⟩, ⟨0, 1⟩, ⟨0, 2⟩]
     (verticesOf s.zs.pool [0] 3) = [⟨0, 0⟩, ⟨0, 1⟩, ⟨0, 2⟩]) := by
  decide +kernel

theorem witness_DeleteZoneActs :
    (Hears zoned 0x0C 3 [63] ∧ HasRoom zoned ∧ Hears zoned 0x0C 3 [64]) ∧ (zoned.zs.active.get 4).isLive = true ∧
    ((drafted.zs.active.get 3).isLive = false ∧ (drafted.zs.draft.get 3).isOpen = true) ∧
    ((zoned.zs.active.get 5).isLive = false ∧ zoned.zs.draft.get 5 = .inherit) ∧
    ((opened.withZs { opened.zs with draft := opened.zs.draft.set 3 (.closed (.box ⟨0, 0, 1, 1⟩) anAttrs) }).zs.draft.get 3 =
      .closed (.box ⟨0, 0, 1, 1⟩) anAttrs) := by
  decide +kernel

theorem witness_DiscardDraftFrees :
    Hears drafted 0x0D 3 [] ∧ HasRoom drafted ∧ (∀ z, zoned.zs.draft.get z = .inherit) := by
  decide +kernel

/-- The deletion of zone 4 is drafted, over an object inside it. -/
def deleting : State :=
  placed inZone (drafting .deleted).zs EventQueue.reset Evaluator.reset

theorem witness_CommitTakesThePlan :
    (Hears drafted 0x0E 3 [] ∧ HasRoom drafted ∧ (drafted.zs.draft.get 3).isOpen = true ∧
      ∀ y : ZoneId, y.val < 3 → (drafted.zs.draft.get y).isOpen = false) ∧
    (∀ z, zoned.zs.draft.get z = .inherit) ∧
    (Hears deleting 0x0E 3 [] ∧ HasRoom deleting ∧ (∀ z, (deleting.zs.draft.get z).isOpen = false) ∧
      deleting.zs.draft.get 4 ≠ .inherit ∧ deleting.ev.context = none) ∧
    ((evaluating (.query aQuery 3) (drafting (.amended anAttrs))).ev.context.isSome = true ∧
      (∀ z, ((drafting (.amended anAttrs)).zs.draft.get z).isOpen = false)) := by
  decide +kernel

theorem witness_CommitForcesExits :
    Hears deleting 0x0E 3 [] ∧ HasRoom deleting ∧ (∀ z, (deleting.zs.draft.get z).isOpen = false) ∧
    deleting.zs.draft.get 4 ≠ .inherit ∧ (deleting.slots.get 0).phase ≠ .free := by
  decide +kernel

theorem witness_CommitTellsForcedExits :
    (Hears deleting 0x0E 3 [] ∧ HasRoom deleting ∧ (∀ z, (deleting.zs.draft.get z).isOpen = false) ∧
      deleting.zs.draft.get 4 ≠ .inherit ∧ deleting.dirty = []) ∧
    ObjectsSound deleting ∧
    after (.commit 3 []) deleting = formReply 0x0E 3 .ok [0, 4] (answerCommit (heard deleting)).1 ∧
    ([((0 : SlotNo), (4 : ZoneId))]).Nodup ∧ [((0 : SlotNo), (4 : ZoneId))].length ≤ deleting.eq.free ∧
    ∀ i z, (i, z) ∈ [((0 : SlotNo), (4 : ZoneId))] ↔ Forced deleting (answerCommit (heard deleting)).1 (deleting.slots.get i) z := by
  refine ⟨by decide +kernel, inZone_sound _ _ _, by decide +kernel, by decide, by decide +kernel, ?_⟩
  intro i z
  have hslot : deleting.slots.get i = if (0 : SlotNo) = i then inZone else Slot.empty := by
    simp [deleting, placed, withObject, State.withSlots, State.withDirty, State.withZs, State.withEq, State.withEv, State.reset,
      State.afterReset, Table.get_set]
  by_cases hi : (0 : SlotNo) = i
  · subst hi
    rw [hslot, if_pos rfl]
    by_cases hz : z = 4
    · subst hz
      have h : (answerCommit (heard deleting)).1.zs.active.get 4 = .absent 4 6 := by decide +kernel
      simp only [Forced, h, List.mem_singleton, true_iff]
      exact ⟨by decide, by decide +kernel, by decide +kernel, by decide⟩
    · have h : inSet inZone.inside z = false := by
        revert z
        decide +kernel
      simp [Forced, h, hz]
  · rw [hslot, if_neg hi]
    have : i ≠ 0 := fun h => hi h.symm
    simp [Forced, Slot.empty, this]

/-- The deletion of zone 4 drafted over a clean object inside it with no entry free, and over a dirty object inside it. -/
theorem witness_CommitTellsForcedExits_refused :
    ∀ s ∈ [placed inZone (drafting .deleted).zs crowded Evaluator.reset, placed untold (drafting .deleted).zs EventQueue.reset Evaluator.reset],
      Hears s 0x0E 3 [] ∧ HasRoom s ∧ (∀ z, (s.zs.draft.get z).isOpen = false) ∧ s.zs.draft.get 4 ≠ .inherit ∧ ObjectsSound s ∧
      (after (.commit 3 []) s).dirty = [0] ∧ (after (.commit 3 []) s).eq = s.eq ∧
      ((after (.commit 3 []) s).slots.get 0).toldSet = (s.slots.get 0).toldSet := by
  intro s hs
  simp only [List.mem_cons, List.not_mem_nil, or_false] at hs
  rcases hs with rfl | rfl
  · exact ⟨by decide +kernel, by decide +kernel, by decide +kernel, by decide +kernel, inZone_sound _ _ _, by decide +kernel⟩
  · exact ⟨by decide +kernel, by decide +kernel, by decide +kernel, by decide +kernel, untold_sound _ _ _, by decide +kernel⟩

/-- R66, R98: of two groups of one commit and one free entry, the lower slot's is queued and the other object becomes dirty. -/
theorem test_commit_lower_slot_first :
    let s := deleting.withSlots (deleting.slots.set 5 { inZone with id := 5006 })
    let t := after (.commit 3 []) (s.withEq { crowded with waiting := List.replicate 95 (quietEvent 0 3 0) })
    t.dirty = [5] ∧ (t.slots.get 0).toldSet = 0 ∧ (t.slots.get 5).toldSet = 16 ∧ (t.slots.get 5).inside = 0 := by decide +kernel

theorem witness_ReadsOfTheStore :
    (Hears zoned 0x0F 3 [4, 1] ∧ HasRoom zoned ∧ Hears zoned 0x0F 3 [64, 2] ∧ zoned.zs.active.get 4 = boxRecord ∧
      zoned.zs.active.get 5 = .absent 0 0) ∧
    ((drafted.zs.draft.get 3).isOpen = true ∧ (drafting (.amended anAttrs)).zs.draft.get 4 = .amended anAttrs ∧
      (drafting .deleted).zs.draft.get 4 = .deleted ∧
      (drafting (.closed (.box ⟨0, 0, 1, 1⟩) anAttrs)).zs.draft.get 4 = .closed (.box ⟨0, 0, 1, 1⟩) anAttrs) ∧
    (Hears drafted 0x10 3 ([3, 1] ++ beBytes 2 6) ∧ 6 < (verticesOf drafted.zs.pool [511] 7).length ∧
      Hears drafted 0x10 3 ([3, 1] ++ beBytes 2 7) ∧ (verticesOf drafted.zs.pool [511] 7).length ≤ 7) := by
  decide +kernel

theorem witness_PrefilterGivesTheEdgeTest :
    ((boundingBox [⟨0, 0⟩, ⟨4, 0⟩, ⟨0, 4⟩]).holds (-1) 2 = false ∧ (boundingBox [⟨0, 0⟩, ⟨4, 0⟩, ⟨0, 4⟩]).holds 5 0 = false) ∧
    ((-8388608 : Coord).toInt < (8388607 : Coord).toInt ∧ (0 : Coord).toInt < (1 : Coord).toInt) ∧
    (boundingBox [⟨0, 0⟩, ⟨8388607, 0⟩, ⟨0, 8388607⟩]).holds 8388607 0 = true := by
  decide +kernel

theorem witness_RecordsReadBack : 65535 < 256 ^ 2 := by decide

def idBytes : List Byte :=
  [0, 0, 0x13, 0x89]

theorem none_unknown : Unknown State.reset 5001 := by
  intro j
  simp [State.reset, State.afterReset, Slot.empty]

theorem placed_slot (sl : Slot) (zs : ZoneStore) (q : EventQueue) (ev : Evaluator) (j : SlotNo) :
    (placed sl zs q ev).slots.get j = if (0 : SlotNo) = j then sl else Slot.empty := by
  simp [placed, withObject, State.withSlots, State.withDirty, State.withZs, State.withEq, State.withEv, State.reset, State.afterReset,
    Table.get_set]

theorem placed_holds (sl : Slot) (zs : ZoneStore) (q : EventQueue) (ev : Evaluator) (hphase : sl.phase ≠ .free) :
    HoldsId (placed sl zs q ev) 0 sl.id := by
  refine ⟨by rw [placed_slot]; exact hphase, by rw [placed_slot]; rfl, ?_⟩
  intro j hj _
  rw [placed_slot] at hj
  by_cases h : (0 : SlotNo) = j
  · exact h.symm
  · simp [h, Slot.empty] at hj

theorem witness_DeclareObjectTakesASlot :
    (Hears State.reset 0x14 3 (idBytes ++ [7]) ∧ HasRoom State.reset ∧ Hears State.reset 0x14 3 (idBytes ++ [8]) ∧
      field (idBytes ++ [7]) 0 4 = 5001) ∧
    Unknown State.reset 5001 ∧ LowestFree State.reset 0 ∧
    (∃ s : State, Unknown s 5001 ∧ ∀ j, (s.slots.get j).phase ≠ .free) ∧ HoldsId (placed retiring zoned.zs someEvents Evaluator.reset) 0 5001 := by
  refine ⟨by decide +kernel, none_unknown, ⟨by decide +kernel, fun j h => absurd h (Nat.not_lt_zero _)⟩, ?_, placed_holds _ _ _ _ (by decide)⟩
  refine ⟨State.reset.withSlots (Table.fill 128 { tracked with id := 1 }), ?_, ?_⟩
  · intro j
    simp [State.withSlots, tracked]
  · intro j
    simp [State.withSlots, tracked]

theorem inZone_live (q : EventQueue) (ev : Evaluator) (sl : Slot) (h : sl.inside = 16) :
    InsideLive (placed sl zoned.zs q ev) sl := by
  intro z hz
  rw [h] at hz
  have : z = 4 := by
    revert z
    decide +kernel
  subst this
  exact (by decide +kernel : (zoned.zs.active.get 4).isLive = true)

theorem witness_RetireObjectActs :
    (Hears (placed inZone zoned.zs EventQueue.reset Evaluator.reset) 0x16 3 (idBytes ++ [0]) ∧
      HasRoom (placed inZone zoned.zs EventQueue.reset Evaluator.reset)) ∧
    Unknown State.reset 5001 ∧
    (HoldsId (placed inZone zoned.zs EventQueue.reset Evaluator.reset) 0 5001 ∧
      HoldsId (placed retiring zoned.zs EventQueue.reset Evaluator.reset) 0 5001) ∧
    (ObjectsSound (placed inZone zoned.zs EventQueue.reset Evaluator.reset) ∧
      InsideLive (placed inZone zoned.zs EventQueue.reset Evaluator.reset) inZone ∧
      (retireEvents (placed inZone zoned.zs EventQueue.reset Evaluator.reset) inZone .retire).length ≤ EventQueue.reset.free) ∧
    (ObjectsSound (placed inZone zoned.zs crowded Evaluator.reset) ∧ InsideLive (placed inZone zoned.zs crowded Evaluator.reset) inZone ∧
      crowded.free < (retireEvents (placed inZone zoned.zs crowded Evaluator.reset) inZone .retire).length) ∧
    (ObjectsSound (placed untold zoned.zs crowded Evaluator.reset) ∧ InsideLive (placed untold zoned.zs crowded Evaluator.reset) untold ∧
      (placed untold zoned.zs crowded Evaluator.reset).dirty.head? = some 0) := by
  refine ⟨by decide +kernel, none_unknown, ⟨placed_holds _ _ _ _ (by decide), placed_holds _ _ _ _ (by decide)⟩,
    ⟨inZone_sound _ _ _, inZone_live _ _ _ rfl, by decide +kernel⟩, ⟨inZone_sound _ _ _, inZone_live _ _ _ rfl, by decide +kernel⟩,
    ⟨untold_sound _ _ _, inZone_live _ _ _ rfl, by decide +kernel⟩⟩

/-- Two dirty objects, 5001 in slot 0 at the head of the dirty list and 5002 in slot 1 behind it. -/
def twoDirty : State :=
  (State.reset.withSlots ((State.reset.slots.set 0 untold).set 1 { untold with id := 5002 })).withDirty [0, 1]

/-- A SILENT retirement of the head of a longer dirty list, of an object behind the head, and of the only dirty object. -/
theorem witness_RetireObjectActs_silent :
    (HoldsId twoDirty 0 5001 ∧ twoDirty.dirty.head? = some 0 ∧ twoDirty.dirty.filter (· != 0) ≠ [] ∧
      Hears twoDirty 0x16 3 (idBytes ++ [1]) ∧ HasRoom twoDirty ∧ (byteAt (idBytes ++ [1]) 4).getLsbD 0 = true) ∧
    (HoldsId twoDirty 1 5002 ∧ twoDirty.dirty.head? ≠ some 1 ∧ Hears twoDirty 0x16 3 [0, 0, 0x13, 0x8A, 1] ∧
      (BitVec.ofNat 32 (field [0, 0, 0x13, 0x8A, 1] 0 4) : ObjId) = 5002 ∧ (twoDirty.slots.get 1).phase ≠ .retiring) ∧
    (let s := placed untold zoned.zs crowded Evaluator.reset
     HoldsId s 0 5001 ∧ s.dirty.head? = some 0 ∧ s.dirty.filter (· != 0) = [] ∧ Hears s 0x16 3 (idBytes ++ [1])) := by
  refine ⟨⟨?_, by decide +kernel⟩, ⟨?_, by decide +kernel⟩, placed_holds _ _ _ _ (by decide), by decide +kernel⟩
  all_goals
    unfold HoldsId
    decide +kernel

theorem witness_ReadsOfTheTable :
    (Hears (placed inZone zoned.zs EventQueue.reset Evaluator.reset) 0x17 3 idBytes ∧
      HasRoom (placed inZone zoned.zs EventQueue.reset Evaluator.reset)) ∧
    HoldsId (placed inZone zoned.zs EventQueue.reset Evaluator.reset) 0 5001 ∧ Unknown State.reset 5001 ∧
    (Hears State.reset 0x18 3 [127] ∧ Hears State.reset 0x18 3 [128]) ∧
    (let s := State.reset.withSlots (Table.fill 128 tracked)
     ((List.finRange 128).filter fun i : SlotNo => decide ((0 : Byte).toNat ≤ i.val ∧ (s.slots.get i).phase ≠ .free))[15]? = some 15) :=
  ⟨by decide +kernel, placed_holds _ _ _ _ (by decide), none_unknown, by decide +kernel, by decide +kernel⟩

theorem witness_QuietExpiryLeavesDropZones :
    (∀ zs q ev, ObjectsSound (placed inZone zs q ev) ∧ ObjectsSound (placed untold zs q ev)) ∧
    (inZone.phase = .tracked ∧ inZone.quietTimer = .running 5000 5000 ∧ untold.quietTimer = .running 5000 5000) ∧
    (quietEvents (placed inZone zoned.zs EventQueue.reset Evaluator.reset) inZone).length ≤ EventQueue.reset.free ∧
    crowded.free < (quietEvents (placed inZone zoned.zs crowded Evaluator.reset) inZone).length ∧
    ((placed quiet zoned.zs crowded Evaluator.reset).slots.get 0).phase ≠ .tracked :=
  ⟨fun _ _ _ => ⟨inZone_sound _ _ _, untold_sound _ _ _⟩, by decide, by decide +kernel, by decide +kernel, by decide +kernel⟩

/-- A QUIET object still inside a HOLD zone and not told of it. -/
def quietUntold : Slot :=
  { quiet with dirty := true }

theorem quietUntold_sound (zs : ZoneStore) (q : EventQueue) (ev : Evaluator) : ObjectsSound (placed quietUntold zs q ev) :=
  placed_sound _ _ _ _ (by simp [Slot.sound, quietUntold, quiet, Slot.empty, Timer.within]) (fun h => by simp [quietUntold] at h)

theorem witness_RetireExpiryRetires :
    (∀ zs q ev, ObjectsSound (placed quiet zs q ev) ∧ ObjectsSound (placed quietUntold zs q ev)) ∧
    (∀ q ev, InsideLive (placed quiet zoned.zs q ev) quiet ∧ InsideLive (placed quietUntold zoned.zs q ev) quietUntold) ∧
    (quiet.phase = .quiet ∧ quiet.retireTimer = .running 60000 60000 ∧ quietUntold.retireTimer = .running 60000 60000) ∧
    (retireEvents (placed quiet zoned.zs EventQueue.reset Evaluator.reset) quiet .quiet).length ≤ EventQueue.reset.free ∧
    crowded.free < (retireEvents (placed quiet zoned.zs crowded Evaluator.reset) quiet .quiet).length ∧
    (tracked.phase ≠ .quiet) := by
  refine ⟨fun _ _ _ => ⟨quiet_sound _ _ _, quietUntold_sound _ _ _⟩, ?_, by decide, by decide +kernel, by decide +kernel, by decide⟩
  intro q ev
  constructor <;> intro z hz <;> simp [inSet, quiet, quietUntold, Slot.empty] at hz

theorem witness_JoiningTakesItsPlace : QueueSound someEvents := someEvents_sound

theorem witness_TakeEventDelivers :
    (Hears queued 0x1A 3 [0] ∧ HasRoom queued ∧ queued.eq.held.length < 8 ∧ queued.eq.waiting.length = 2) ∧
    (State.reset.eq.waiting = [] ∧ State.reset.eq.held.length < 8) ∧
    8 ≤ ({ someEvents with held := List.replicate 8 ⟨quietEvent 41 3 1, .running 10 0⟩ } : EventQueue).held.length ∧
    (({ EventQueue.reset with held := List.replicate 7 ⟨quietEvent 41 3 1, .running 10 0⟩ } : EventQueue).held.length < 8) := by
  decide +kernel

theorem witness_ReleaseEventFrees :
    QueueSound queued.eq ∧ (Hears queued 0x1B 3 (beBytes 2 41) ∧ HasRoom queued) ∧ (∃ h ∈ queued.eq.held, h.event.seq = 41) ∧
    (∃ e ∈ queued.eq.waiting, e.seq = 40 ∧ e.redelivered = true) ∧ (∃ e ∈ queued.eq.waiting, e.seq = 42 ∧ e.redelivered = false) ∧
    (∀ e ∈ queued.eq.queued, e.seq ≠ 43) :=
  ⟨someEvents_sound, by decide +kernel, by decide, by decide, by decide, by decide⟩

theorem witness_FreedEntriesAreUsed :
    State.reset.dirty = [] ∧
    (ObjectsSound (placed untold zoned.zs EventQueue.reset Evaluator.reset) ∧
      (placed untold zoned.zs EventQueue.reset Evaluator.reset).dirty = 0 :: [] ∧
      (catchUpEvents (placed untold zoned.zs EventQueue.reset Evaluator.reset) untold).length + 8 ≤ EventQueue.reset.free) ∧
    (ObjectsSound (placed retiring zoned.zs EventQueue.reset Evaluator.reset) ∧ retiring.phase = .retiring ∧
      (catchUpEvents (placed retiring zoned.zs EventQueue.reset Evaluator.reset) retiring).length + 8 ≤ EventQueue.reset.free) ∧
    (ObjectsSound (placed untold zoned.zs crowded Evaluator.reset) ∧
      crowded.free < (catchUpEvents (placed untold zoned.zs crowded Evaluator.reset) untold).length + 8) :=
  ⟨rfl, ⟨untold_sound _ _ _, rfl, by decide +kernel⟩, ⟨retiring_sound _ _ _, rfl, by decide +kernel⟩,
    ⟨untold_sound _ _ _, by decide +kernel⟩⟩

theorem witness_ArmAttnSets :
    Hears queued 0x1C 3 [0xC0, 1] ∧ HasRoom queued ∧ Hears queued 0x1C 3 [0xC0, 2] ∧ 1 < (2 : Byte).toNat ∧ queued.resetn = true := by
  decide +kernel

theorem witness_RedeliveryReturnsTheEvent :
    (queued.resetn = true ∧ ∀ h ∈ queued.eq.held, h.event.seq = 40 → h.timer.due = false) ∧
    (QueueSound someEvents ∧ QueueSound (overruns 1) ∧ QueueSound (overruns 0) ∧ QueueSound olderPending) ∧
    (∃ h ∈ someEvents.held, h.event.seq = 41 ∧ h.timer.due = true ∧ h.event.kind.system? = none) ∧
    (∃ h ∈ (overruns 1).held, h.timer.due = true ∧ h.event.kind.system? = some .feedOverrun ∧
      ∃ p ∈ (overruns 1).waiting, p.kind.system? = some .feedOverrun ∧ h.event.arrival < p.arrival) ∧
    (∃ h ∈ olderPending.held, h.timer.due = true ∧ h.event.kind.system? = some .feedOverrun ∧
      ∃ p ∈ olderPending.waiting, p.kind.system? = some .feedOverrun ∧ p.arrival < h.event.arrival) ∧
    (∃ h ∈ (overruns 0).held, h.timer.due = true ∧ h.event.kind.system? = some .feedOverrun ∧
      ∀ p ∈ (overruns 0).waiting, p.kind.system? ≠ some .feedOverrun) :=
  ⟨by decide +kernel, ⟨someEvents_sound, overruns_sound 1 (by decide), overruns_sound 0 (by decide), olderPending_sound⟩, by decide, by decide,
    by decide, by decide⟩

theorem witness_SystemReportsAreCounted :
    ((overruns 1).waiting.any (fun e => match e.kind with
      | .feedOverrun _ => true
      | _ => false) = true) ∧
    (someEvents.waiting.length + someEvents.held.length < 96 ∧ 96 ≤ crowded.waiting.length + crowded.held.length) := by
  decide +kernel

theorem witness_FeedFramesAreReceived :
    FeedHears State.reset 0x21 3 (fixBatchPayload (List.replicate 8 aFix)) ∧ FeedHears State.reset 0x21 3 (fixBatchPayload []) ∧
    FeedHears State.reset 0x21 3 (fixBatchPayload (List.replicate 9 aFix)) ∧ FeedHears State.reset 0x22 3 [] := by
  decide +kernel

/-- A host fix, and a feed fix, wait over a table with this slot. -/
def offering (sl : Slot) (f : Fix) : State :=
  let s := placed sl zoned.zs EventQueue.reset Evaluator.reset
  (s.withFlr { s.flr with queue := [f] }).withHlc { s.hlc with fixSlot := .waiting 7 f }

theorem witness_GrantsAreOpened :
    (waiting.resetn = true ∧ waiting.ev.context = none ∧ FirstWaiting waiting .query ∧ waiting.hlc.querySlot = .waiting 6 aQuery) ∧
    (FirstWaiting (offering inZone aFix) .hostFix ∧ (offering inZone aFix).hlc.fixSlot = .waiting 7 aFix) ∧
    (∃ s : State, s.resetn = true ∧ s.ev.context = none ∧ FirstWaiting s .feed ∧ s.flr.queue = aFix :: []) ∧
    (∀ src, ¬ Waits State.reset src) ∧
    (HoldsId (placed inZone zoned.zs EventQueue.reset Evaluator.reset) 0 aFix.id ∧ inZone.lastFix = some ⟨7, 1, 1, 9⟩ ∧
      1 ≤ (aFix.time - 7).toNat ∧ ((7 : BitVec 32) - 7).toNat = 0 ∧ tracked.lastFix = none) ∧
    (HoldsId (placed retiring zoned.zs EventQueue.reset Evaluator.reset) 0 aFix.id ∧ Unknown State.reset aFix.id ∧
      State.reset.params.autoAdmit = true ∧ LowestFree State.reset 0) := by
  refine ⟨⟨rfl, rfl, ⟨⟨6, aQuery, rfl⟩, ?_, ?_⟩, rfl⟩, ⟨⟨⟨7, aFix, rfl⟩, ?_, ?_⟩, rfl⟩, ?_, ?_,
    ⟨placed_holds _ _ _ _ (by decide), by decide +kernel⟩,
    placed_holds _ _ _ _ (by decide), none_unknown, rfl, by decide +kernel, fun j h => absurd h (Nat.not_lt_zero _)⟩
  · rintro _ ⟨tag, f, h⟩
    cases h
  · intro h
    cases h
  · intro h
    exact absurd rfl h
  · intro h
    cases h
  · refine ⟨State.reset.withFlr { State.reset.flr with queue := [aFix] }, rfl, rfl, ⟨by simp [Waits, State.withFlr], ?_, ?_⟩, rfl⟩
    · rintro _ ⟨tag, f, h⟩
      cases h
    · rintro _ ⟨tag, f, h⟩
      cases h
  · intro src h
    cases src
    · obtain ⟨tag, f, h⟩ := h
      cases h
    · obtain ⟨tag, q, h⟩ := h
      cases h
    · exact h rfl

theorem start_sound (zs : ZoneStore) (job : Job) : (Context.start job).sound zs :=
  ⟨Nat.zero_le _, fun _ => ⟨fun h => absurd h (Nat.not_lt_zero _), fun _ => by simp [Context.start]⟩⟩

/-- An Evaluator at the start of this job. -/
def starting (job : Job) : Evaluator :=
  { Evaluator.reset with context := some (Context.start job) }

theorem witness_FixCompletionWrites :
    (∀ sl q job, (placed sl zoned.zs q (starting job)).ev.context = some (Context.start job) ∧ (Context.start job).sound zoned.zs) ∧
    (∀ q ev, ObjectsSound (placed tracked zoned.zs q ev) ∧ ObjectsSound (placed inZone zoned.zs q ev) ∧
      ObjectsSound (placed untold zoned.zs q ev) ∧ ObjectsSound (placed quiet zoned.zs q ev)) ∧
    (tracked.id = aFix.id ∧ tracked.phase = .tracked ∧ quiet.phase = .quiet ∧ zoned.zs.active.get 4 = boxRecord) ∧
    (let s := placed tracked zoned.zs EventQueue.reset (starting (.feedFix 0 aFix))
     completionEvents s inZone 16 aFix = [] ∧ completionEvents s tracked 16 aFix ≠ [] ∧
     (completionEvents s tracked 16 aFix).length ≤ EventQueue.reset.free ∧ crowded.free < (completionEvents s tracked 16 aFix).length ∧
     completionEvents s untold 0 aFix ≠ []) :=
  ⟨fun _ _ _ => ⟨rfl, start_sound _ _⟩,
    fun _ _ => ⟨tracked_sound _ _ _, inZone_sound _ _ _, untold_sound _ _ _, quiet_sound _ _ _⟩, by decide +kernel, by decide +kernel⟩

theorem witness_FixCompletionDiscards :
    State.reset.ev.context = none ∧
    (∀ sl job, (placed sl zoned.zs EventQueue.reset (starting job)).ev.context = some (Context.start job)) ∧
    retiring.phase = .retiring ∧ { tracked with id := 5002 }.id ≠ aFix.id ∧
    (State.reset.withHlc { State.reset.hlc with fixSlot := .granted 7 aFix }).hlc.fixSlot = .granted 7 aFix :=
  ⟨rfl, fun _ _ => rfl, rfl, by decide, rfl⟩

theorem witness_QueryCompletionReports :
    ∃ s : State, s.resetn = true ∧ s.ev.context = some (Context.start (.query aQuery 3)) ∧ s.hlc.querySlot = .granted 6 aQuery ∧
      (Context.start (.query aQuery 3)).sound s.zs :=
  ⟨evaluating (.query aQuery 3) (zoned.withHlc { zoned.hlc with querySlot := .granted 6 aQuery }), rfl, rfl, rfl, start_sound _ _⟩

theorem witness_StepsKeepTheStoreSound :
    StoreSound opened ∧ WalkSound opened ∧ ∃ t, step opened = .next t :=
  ⟨opened_sound.1, opened_sound.2, _, rfl⟩

theorem witness_StepsKeepTheObjectsSound :
    ObjectsSound (placed untold zoned.zs someEvents Evaluator.reset) ∧ ∃ t, step (placed untold zoned.zs someEvents Evaluator.reset) = .next t :=
  ⟨untold_sound _ _ _, _, rfl⟩

theorem witness_StepsKeepTheQueueSound : QueueSound queued.eq ∧ ∃ t, step queued = .next t :=
  ⟨someEvents_sound, _, rfl⟩

theorem witness_StepsKeepTheEventsWellMade : EventsWellMade queued ∧ ∃ t, step queued = .next t := by
  refine ⟨⟨?_, ?_⟩, _, rfl⟩
  · intro e he
    simp only [queued, State.withEq, someEvents, EventQueue.queued, quietEvent, List.map_cons, List.map_nil, List.cons_append, List.nil_append,
      List.mem_cons, List.not_mem_nil, or_false] at he
    rcases he with rfl | rfl | rfl <;> exact .inl rfl
  · intro i h
    simp [queued, State.withEq, State.reset, State.afterReset, Slot.empty] at h

theorem witness_StepsKeepTheCounters :
    CountersObey (placed inZone zoned.zs someEvents Evaluator.reset) ∧ ∃ t, step (placed inZone zoned.zs someEvents Evaluator.reset) = .next t := by
  have ha : ∀ z, zoned.zs.active.get z = if (4 : ZoneId) = z then boxRecord else .absent 0 0 := by
    intro z
    simp [zoned, State.withZs, Table.get_set]
  refine ⟨⟨?_, ?_, ?_⟩, _, rfl⟩
  · intro z g a st h
    have h' := (ha z).symm.trans h
    split at h'
    · cases h'
      decide
    · cases h'
  · intro z a h
    have hd : (placed inZone zoned.zs someEvents Evaluator.reset).zs.draft.get z = .inherit := by
      show zoned.zs.draft.get z = .inherit
      simp [zoned, State.withZs, ZoneStore.reset]
    rw [hd] at h
    cases h
  · intro i hi
    rw [placed_slot] at hi ⊢
    by_cases h0 : (0 : SlotNo) = i
    · simp only [h0, if_true] at hi ⊢
      refine ⟨fun h => absurd h (by decide), ?_⟩
      intro z
      have hz : (placed inZone zoned.zs someEvents Evaluator.reset).zs.active.get z = if (4 : ZoneId) = z then boxRecord else .absent 0 0 := ha z
      rw [hz]
      by_cases h4 : (4 : ZoneId) = z
      · subst h4
        rw [if_pos rfl]
        exact (by decide +kernel : inZone.run.get 4 ≤ 14 ∧
          inZone.run.get 4 < (if inSet inZone.inside 4 = true then (1 : BitVec 4).toNat else (1 : BitVec 4).toNat))
      · rw [if_neg h4]
        refine ⟨by simp [inZone, tracked, Slot.empty], ?_⟩
        revert h4
        revert z
        decide +kernel
    · simp [h0, Slot.empty] at hi

theorem witness_StepsKeepTheLinksSound :
    LinksSound (State.afterReset true false) ∧ ∃ t, step (State.afterReset true false) = .next t := by
  refine ⟨⟨by decide, ?_, by decide, ?_, by decide, by decide, ?_, by decide, by decide, by decide, trivial, trivial, ?_⟩, _, rfl⟩
  · intro d h
    cases d <;> cases h
  · intro d
    cases d <;> decide
  · intro tag h
    cases h
  · intro id v h
    revert h
    simp only [State.afterReset, Params.reset, Params.value]
    split <;> intro h <;> cases h <;> simp_all [paramAllows]

end Sys2Proof.Machine.Tests
end

