-- ==== Sys2Proof/Proofs/ZoneCommands.lean ====
section
/-! SUPPORT. The commands of the Zone Store as answers of the store alone: each obligation of chapter 2 then follows from what the store
answers. -/

namespace Sys2Proof.Machine

/-! ### From the command to the store -/

/-- Every command that is a host frame is that frame's decode, whichever constructor carries it (R139). -/
theorem exec_hostFrame {c : Instr} {type tag : Byte} {p : List Byte} (hc : hostFrameOf c = some (type, tag, p)) (s : State) :
    exec c s = hostCommand type tag p (decodeRequest type tag p) s := by
  cases c <;> cases hc <;> rfl

/-- The command is a host frame that only asks the Zone Store `f`, once its length has passed R169. -/
def ZoneCommand (c : Instr) (type tag : Byte) (p : List Byte) (f : ZoneStore → ZoneAnswer) : Prop :=
  ∀ s, exec c s = hostCommand type tag p (immediate type tag (lengthAllowed type p) (zoneRequest f)) s

theorem zoneCommand_of_decode {c : Instr} {type tag : Byte} {p : List Byte} {f : ZoneStore → ZoneAnswer}
    (hc : hostFrameOf c = some (type, tag, p))
    (hd : decodeRequest type tag p = immediate type tag (lengthAllowed type p) (zoneRequest f)) : ZoneCommand c type tag p f := by
  intro s
  rw [exec_hostFrame hc, hd]

section Answers

variable {c : Instr} {type tag : Byte} {p : List Byte} {f : ZoneStore → ZoneAnswer} {s : State}

/-- A heard Zone Store command of a good length leaves the store its answer names, and the reply. -/
theorem ZoneCommand.answers (hc : ZoneCommand c type tag p f) (hear : Hears s type tag p) (room : HasRoom s)
    (len : lengthAllowed type p = true) {zs : ZoneStore} {r : Result} {body : List Byte} (answer : f s.zs = (zs, r, body)) :
    exec c s = .next (formReply type tag r body ((heard s).withZs zs)) := by
  obtain ⟨running, short, expected⟩ := hear
  rw [hc, hostCommand_heard _ running short expected, len, immediate_runs _ _ _ (by simpa using room)]
  simp [zoneRequest, State.withHostFramer, answer]

/-- A refusal by the Zone Store leaves the part as it was heard, but for the reply. -/
theorem ZoneCommand.refuses (hc : ZoneCommand c type tag p f) (hear : Hears s type tag p) (room : HasRoom s)
    (len : lengthAllowed type p = true) {r : Result} {body : List Byte} (answer : f s.zs = (s.zs, r, body)) :
    exec c s = .next (formReply type tag r body (heard s)) :=
  hc.answers hear room len answer

/-- A heard Zone Store command of a bad length does not reach the store (R139, R169). -/
theorem ZoneCommand.badLength (hc : ZoneCommand c type tag p f) (hear : Hears s type tag p) (room : HasRoom s)
    (len : lengthAllowed type p = false) : exec c s = .next (formReply type tag .badLength [] (heard s)) := by
  obtain ⟨running, short, expected⟩ := hear
  rw [hc, hostCommand_heard _ running short expected, len, immediate_badLength _ _ _ (by simpa using room)]
  rfl

end Answers

/-! ### The decode of each request of the Zone Store -/

/-- R169's table asks of a DEFINE_ZONE what its decoder asks. -/
theorem lengthAllowed_defineZone (p : List Byte) : lengthAllowed 0x08 p = defineZoneLength p := by
  have kind_zero : byteAt p 1 = 0 ↔ (byteAt p 1).toNat = 0 := by simp [← BitVec.toNat_inj]
  change (_ && _) = (_ && _)
  simp only [kind_zero]
  generalize (byteAt p 1).toNat = kind
  match kind with
  | 0 => rfl
  | 1 => rfl
  | 2 => rfl
  | k + 3 => simp

theorem decodeRequest_defineZone (tag : Byte) (p : List Byte) :
    decodeRequest 0x08 tag p = immediate 0x08 tag (lengthAllowed 0x08 p) (zoneRequest (ZoneStore.defineZone p)) := by
  rw [lengthAllowed_defineZone]
  rfl

theorem decodeRequest_amendZone (tag : Byte) (p : List Byte) :
    decodeRequest 0x09 tag p = immediate 0x09 tag (lengthAllowed 0x09 p) (zoneRequest (ZoneStore.amendZone p)) := rfl

theorem decodeRequest_addVertices (tag : Byte) (p : List Byte) :
    decodeRequest 0x0A tag p = immediate 0x0A tag (lengthAllowed 0x0A p) (zoneRequest (ZoneStore.addVertices p)) := rfl

theorem decodeRequest_closeZone (tag : Byte) (p : List Byte) :
    decodeRequest 0x0B tag p = immediate 0x0B tag (lengthAllowed 0x0B p) (zoneRequest (ZoneStore.closeZone p)) := rfl

theorem decodeRequest_deleteZone (tag : Byte) (p : List Byte) :
    decodeRequest 0x0C tag p = immediate 0x0C tag (lengthAllowed 0x0C p) (zoneRequest (ZoneStore.deleteZone p)) := rfl

theorem decodeRequest_discardDraft (tag : Byte) (p : List Byte) :
    decodeRequest 0x0D tag p = immediate 0x0D tag (lengthAllowed 0x0D p) (zoneRequest ZoneStore.discardDraft) := rfl

theorem decodeRequest_readZone (tag : Byte) (p : List Byte) :
    decodeRequest 0x0F tag p = immediate 0x0F tag (lengthAllowed 0x0F p) (zoneRequest (ZoneStore.readZone p)) := rfl

theorem decodeRequest_readVertices (tag : Byte) (p : List Byte) :
    decodeRequest 0x10 tag p = immediate 0x10 tag (lengthAllowed 0x10 p) (zoneRequest (ZoneStore.readVertices p)) := rfl

/-! ### The zone id -/

theorem withZone_above (zs : ZoneStore) {b : Byte} (f : ZoneId → ZoneAnswer) (h : 63 < b.toNat) :
    withZone zs b f = (zs, .badValue, []) := by
  have none_named : zoneIdOf b = none := dif_neg (by omega)
  simp [withZone, none_named]

theorem withZone_names (zs : ZoneStore) {b : Byte} {z : ZoneId} (f : ZoneId → ZoneAnswer) (h : b.toNat = z.val) :
    withZone zs b f = f z := by
  simp [withZone, (zoneIdOf_eq_some b z).2 h]

/-- Each of the seven request TYPEs that name a zone is decoded to a Zone Store request that begins with the zone id (R22). -/
theorem decodeRequest_namesZone {type : Byte} (ht : type ∈ [0x08, 0x09, 0x0A, 0x0B, 0x0C, 0x0F, 0x10]) (tag : Byte) (p : List Byte) :
    ∃ f : ZoneStore → ZoneId → ZoneAnswer, decodeRequest type tag p =
      immediate type tag (lengthAllowed type p) (zoneRequest fun zs => withZone zs (byteAt p 0) (f zs)) := by
  simp only [List.mem_cons, List.not_mem_nil, or_false] at ht
  rcases ht with rfl | rfl | rfl | rfl | rfl | rfl | rfl
  · exact ⟨_, decodeRequest_defineZone tag p⟩
  · exact ⟨_, decodeRequest_amendZone tag p⟩
  · exact ⟨_, decodeRequest_addVertices tag p⟩
  · exact ⟨_, decodeRequest_closeZone tag p⟩
  · exact ⟨_, decodeRequest_deleteZone tag p⟩
  · exact ⟨_, decodeRequest_readZone tag p⟩
  · exact ⟨_, decodeRequest_readVertices tag p⟩

/-- Settles O23: whatever constructor carries the frame, its TYPE is decoded to a store request that begins with the zone id. -/
theorem zoneIdAbove63Refused : Obligations.ZoneIdAbove63Refused := by
  intro c type tag p s frame names hear room
  obtain ⟨f, decoded⟩ := decodeRequest_namesZone names tag p
  have command := zoneCommand_of_decode frame decoded
  exact ⟨fun len above => command.refuses hear room len (withZone_above s.zs (f s.zs) above), command.badLength hear room⟩

end Sys2Proof.Machine
end

