-- ==== Sys2Proof/Proofs/Drafting.lean ====
section
/-! SUPPORT. What the Zone Store answers to each drafting request, an equation for each case of the spec, and the obligations about them. -/

namespace Sys2Proof.Machine

/-! ### What the store answers -/

theorem Attrs.legal_iff (a : Attrs) : a.legal = true ↔ a.enterCount ≠ 0 ∧ a.exitCount ≠ 0 := by
  simp [Attrs.legal]

theorem Attrs.not_legal_iff (a : Attrs) : a.legal = false ↔ a.enterCount = 0 ∨ a.exitCount = 0 := by
  simp [Attrs.legal, imp_iff_not_or]

/-- The entry that AMEND_ZONE makes of an entry beside a record, or none when no zone is there to be amended (R33). -/
def DraftEntry.amend (live : Bool) (a : Attrs) : DraftEntry → Option DraftEntry
  | .inherit => if live then some (.amended a) else none
  | .opened rule _ n chain => some (.opened rule a n chain)
  | .closed g _ => some (.closed g a)
  | .amended _ => some (.amended a)
  | .deleted => none

section Answers

variable {zs : ZoneStore} {p : List Byte} {z : ZoneId} (named : (byteAt p 0).toNat = z.val)

include named

/-! ### DEFINE_ZONE (R28, R29) -/

theorem defineZone_badKind (kind : 3 ≤ (byteAt p 1).toNat) : zs.defineZone p = (zs, .badValue, []) := by
  simp [ZoneStore.defineZone, withZone_names zs _ named, kind]

theorem defineZone_badCounts (counts : (attrsAt p 2).legal = false) : zs.defineZone p = (zs, .badValue, []) := by
  simp [ZoneStore.defineZone, withZone_names zs _ named, counts]

theorem defineZone_emptyBox (kind : byteAt p 1 = 0) (counts : (attrsAt p 2).legal = true)
    (empty : (boxAt p 5).xmax ≤ (boxAt p 5).xmin ∨ (boxAt p 5).ymax ≤ (boxAt p 5).ymin) : zs.defineZone p = (zs, .badShape, []) := by
  have not_box : ¬ ((boxAt p 5).xmin < (boxAt p 5).xmax ∧ (boxAt p 5).ymin < (boxAt p 5).ymax) := by omega
  simp [ZoneStore.defineZone, withZone_names zs _ named, kind, counts, not_box]

theorem defineZone_box (kind : byteAt p 1 = 0) (counts : (attrsAt p 2).legal = true)
    (wide : (boxAt p 5).xmin < (boxAt p 5).xmax) (high : (boxAt p 5).ymin < (boxAt p 5).ymax) :
    zs.defineZone p = (zs.replaceEntry z (.closed (.box (boxAt p 5)) (attrsAt p 2)), .ok, []) := by
  simp [ZoneStore.defineZone, withZone_names zs _ named, kind, counts, wide, high]

theorem defineZone_evenOdd (kind : byteAt p 1 = 1) (counts : (attrsAt p 2).legal = true) :
    zs.defineZone p = (zs.replaceEntry z (.opened .evenOdd (attrsAt p 2) 0 []), .ok, []) := by
  simp [ZoneStore.defineZone, withZone_names zs _ named, kind, counts]

theorem defineZone_nonzero (kind : byteAt p 1 = 2) (counts : (attrsAt p 2).legal = true) :
    zs.defineZone p = (zs.replaceEntry z (.opened .nonzero (attrsAt p 2) 0 []), .ok, []) := by
  simp [ZoneStore.defineZone, withZone_names zs _ named, kind, counts]

/-! ### AMEND_ZONE (R33) -/

theorem amendZone_badCounts (counts : (attrsAt p 1).legal = false) : zs.amendZone p = (zs, .badValue, []) := by
  simp [ZoneStore.amendZone, withZone_names zs _ named, counts]

theorem amendZone_amends (counts : (attrsAt p 1).legal = true) {e : DraftEntry}
    (amends : (zs.draft.get z).amend (zs.active.get z).isLive (attrsAt p 1) = some e) : zs.amendZone p = (zs.setEntry z e, .ok, []) := by
  cases entry : zs.draft.get z <;>
    simp_all [ZoneStore.amendZone, withZone_names zs _ named, DraftEntry.amend]

theorem amendZone_noZone (counts : (attrsAt p 1).legal = true)
    (none_left : (zs.draft.get z).amend (zs.active.get z).isLive (attrsAt p 1) = none) : zs.amendZone p = (zs, .noZone, []) := by
  cases entry : zs.draft.get z <;>
    simp_all [ZoneStore.amendZone, withZone_names zs _ named, DraftEntry.amend]

/-! ### ADD_VERTICES (R30) -/

theorem addVertices_badCount (count : (byteAt p 1).toNat = 0 ∨ 16 < (byteAt p 1).toNat) : zs.addVertices p = (zs, .badValue, []) := by
  simp [ZoneStore.addVertices, withZone_names zs _ named, count]

section GoodCount

variable (count : ¬ ((byteAt p 1).toNat = 0 ∨ 16 < (byteAt p 1).toNat))

include count

theorem addVertices_notOpen (closed : (zs.draft.get z).isOpen = false) : zs.addVertices p = (zs, .zoneState, []) := by
  cases entry : zs.draft.get z <;>
    simp_all [ZoneStore.addVertices, withZone_names zs _ named, DraftEntry.isOpen]

variable {rule : FillRule} {a : Attrs} {n : Nat} {chain : List BlockNo} (entry : zs.draft.get z = .opened rule a n chain)

include entry

theorem addVertices_tooMany (total : 512 < n + (byteAt p 1).toNat) : zs.addVertices p = (zs, .badShape, []) := by
  simp [ZoneStore.addVertices, withZone_names zs _ named, count, entry, total]

theorem addVertices_noSpace (total : n + (byteAt p 1).toNat ≤ 512) (space : zs.freeList.length < blocksNeeded n (byteAt p 1).toNat) :
    zs.addVertices p = (zs, .noSpace, beBytes 2 zs.freeList.length) := by
  have fits : ¬ 512 < n + (byteAt p 1).toNat := by omega
  have short : zs.freeList.length < blocksFor (n + (byteAt p 1).toNat) - blocksFor n := space
  simp [ZoneStore.addVertices, withZone_names zs _ named, count, entry, fits, short]

end GoodCount

/-! ### DELETE_ZONE (R34) -/

theorem deleteZone_live (live : (zs.active.get z).isLive = true) : zs.deleteZone p = (zs.replaceEntry z .deleted, .ok, []) := by
  simp [ZoneStore.deleteZone, withZone_names zs _ named, live]

theorem deleteZone_noZone (absent : (zs.active.get z).isLive = false) (entry : zs.draft.get z = .inherit) :
    zs.deleteZone p = (zs, .noZone, []) := by
  simp [ZoneStore.deleteZone, withZone_names zs _ named, absent, entry]

theorem deleteZone_drafted (absent : (zs.active.get z).isLive = false) (entry : zs.draft.get z ≠ .inherit) :
    zs.deleteZone p = (zs.replaceEntry z .inherit, .ok, []) := by
  cases held : zs.draft.get z with
  | inherit => contradiction
  | _ => simp [ZoneStore.deleteZone, withZone_names zs _ named, absent, held]

end Answers

/-! ### DISCARD_DRAFT (R35) -/

theorem draftChains_of_inherit {zs : ZoneStore} (h : ∀ z, zs.draft.get z = .inherit) : zs.draftChains = [] := by
  simp [ZoneStore.draftChains, h, DraftEntry.chain]

/-- With no draft to discard, DISCARD_DRAFT leaves the store as it is. -/
theorem discardDraft_of_inherit {zs : ZoneStore} (h : ∀ z, zs.draft.get z = .inherit) : zs.discardDraft = (zs, .ok, []) := by
  have same : Table.fill 64 .inherit = zs.draft := Table.ext_get fun z => by simp [h]
  simp [ZoneStore.discardDraft, draftChains_of_inherit h, same]

/-! ### The obligations -/

/-- Settles O24, a case of R28 and R29 at a time. -/
theorem defineZoneDrafts : Obligations.DefineZoneDrafts := by
  intro s tag p hear room len refused a b
  have command : ZoneCommand (.defineZone tag p) _ _ _ _ := zoneCommand_of_decode rfl (decodeRequest_defineZone tag p)
  refine ⟨fun above => (zoneIdAbove63Refused _ _ _ _ s rfl (by simp) hear room).1 len above, ?named⟩
  intro z named drafted
  refine ⟨?kind, ?counts, ?legal⟩
  case kind => exact fun kind => command.refuses hear room len (defineZone_badKind named kind)
  case counts => exact fun _ zero => command.refuses hear room len (defineZone_badCounts named (a.not_legal_iff.2 zero))
  case legal =>
    intro enter exit
    have counts : a.legal = true := a.legal_iff.2 ⟨enter, exit⟩
    refine ⟨fun kind empty => ?_, fun kind wide high => ?_, fun kind => ?_, fun kind => ?_⟩
    · exact command.refuses hear room len (defineZone_emptyBox named kind counts empty)
    · exact command.answers hear room len (defineZone_box named kind counts wide high)
    · exact command.answers hear room len (defineZone_evenOdd named kind counts)
    · exact command.answers hear room len (defineZone_nonzero named kind counts)

/-- Settles O25, a row of R33's table at a time. -/
theorem amendZoneActs : Obligations.AmendZoneActs := by
  intro s tag p hear room four refused a
  have len : lengthAllowed 0x09 p = true := beq_iff_eq.2 four
  have command : ZoneCommand (.amendZone tag p) _ _ _ _ := zoneCommand_of_decode rfl (decodeRequest_amendZone tag p)
  refine ⟨fun above => (zoneIdAbove63Refused _ _ _ _ s rfl (by simp) hear room).1 len above, ?named⟩
  intro z named amended
  refine ⟨?counts, ?legal⟩
  case counts => exact fun zero => command.refuses hear room len (amendZone_badCounts named (a.not_legal_iff.2 zero))
  case legal =>
    intro enter exit
    have counts : a.legal = true := a.legal_iff.2 ⟨enter, exit⟩
    have amends {e : DraftEntry} (h : (s.zs.draft.get z).amend (s.zs.active.get z).isLive a = some e) : amended e :=
      command.answers hear room len (amendZone_amends named counts h)
    have finds_none (h : (s.zs.draft.get z).amend (s.zs.active.get z).isLive a = none) : refused .noZone :=
      command.refuses hear room len (amendZone_noZone named counts h)
    refine ⟨fun entry live => amends ?_, fun entry absent => finds_none ?_, fun _ _ _ _ entry => amends ?_, fun _ _ entry => amends ?_,
      fun _ entry => amends ?_, fun entry => finds_none ?_⟩
    · simp [entry, live, DraftEntry.amend]
    · simp [entry, absent, DraftEntry.amend]
    · simp [entry, DraftEntry.amend]
    · simp [entry, DraftEntry.amend]
    · simp [entry, DraftEntry.amend]
    · simp [entry, DraftEntry.amend]

/-- Settles O26, a check of R30 at a time. -/
theorem addVerticesChecks : Obligations.AddVerticesChecks := by
  intro s tag p hear room len refused k
  have command : ZoneCommand (.addVertices tag p) _ _ _ _ := zoneCommand_of_decode rfl (decodeRequest_addVertices tag p)
  refine ⟨fun above => (zoneIdAbove63Refused _ _ _ _ s rfl (by simp) hear room).1 len above, fun z named => ⟨?count, ?entry⟩⟩
  case count => exact fun count => command.refuses hear room len (addVertices_badCount named count)
  case entry =>
    intro some_vertex at_most
    have count : ¬ (k = 0 ∨ 16 < k) := by omega
    refine ⟨fun closed => ?_, fun rule a n chain entry => ⟨fun total => ?_, fun total space => ?_⟩⟩
    · exact command.refuses hear room len (addVertices_notOpen named count closed)
    · exact command.refuses hear room len (addVertices_tooMany named count entry total)
    · exact command.refuses hear room len (addVertices_noSpace named count entry total space)

/-- Settles O29: by the active record, and beside an ABSENT one by whether the entry holds a draft. -/
theorem deleteZoneActs : Obligations.DeleteZoneActs := by
  intro s tag b hear room c
  have len : lengthAllowed 0x0C [b] = true := rfl
  have command : ZoneCommand c _ _ _ _ := zoneCommand_of_decode rfl (decodeRequest_deleteZone tag [b])
  refine ⟨fun above => (zoneIdAbove63Refused _ _ _ _ s rfl (by simp) hear room).1 len above, ?named⟩
  intro z named entryBecomes
  refine ⟨?live, ?absent⟩
  case live => exact fun live => command.answers hear room len (deleteZone_live named live)
  case absent =>
    intro absent
    have drafted (held : s.zs.draft.get z ≠ .inherit) : entryBecomes .inherit :=
      command.answers hear room len (deleteZone_drafted named absent held)
    refine ⟨fun _ _ _ _ entry => drafted (by simp [entry]), fun _ _ entry => drafted (by simp [entry]), fun entry => ?_⟩
    exact command.refuses hear room len (deleteZone_noZone named absent entry)

/-- Settles O30: the model's own equation, and the case with no draft, where nothing but the reply changes. -/
theorem discardDraftFrees : Obligations.DiscardDraftFrees := by
  intro s tag hear room
  have len : lengthAllowed 0x0D [] = true := rfl
  have command : ZoneCommand (.discardDraft tag []) _ _ _ _ := zoneCommand_of_decode rfl (decodeRequest_discardDraft tag [])
  refine ⟨Table.fill 64 .inherit, command.answers hear room len rfl, Table.get_fill _, fun none_held => ?_⟩
  exact command.refuses hear room len (discardDraft_of_inherit none_held)

end Sys2Proof.Machine
end

