-- ==== Sys2Proof/Proofs/ObjectTable.lean ====
section
/-! SUPPORT. The immediate requests as answers of their owner, what the Object Table answers to DECLARE_OBJECT, an equation for each case
of R54, and the obligation about it. -/

namespace Sys2Proof.Machine

/-! ### From the command to the owner's answer -/

/-- A heard immediate request of a good length leaves the state its owner answers with, and the reply (R139, R143). -/
theorem exec_immediate_answers {c : Instr} {type tag : Byte} {p : List Byte} {lengthOk : Bool} {run : State → Answer} {s s' : State}
    {r : Result} {body : List Byte} (frame : hostFrameOf c = some (type, tag, p))
    (decoded : decodeRequest type tag p = immediate type tag lengthOk run) (hear : Hears s type tag p) (room : HasRoom s)
    (len : lengthOk = true) (answer : run (heard s) = (s', r, body)) : exec c s = .next (formReply type tag r body s') := by
  obtain ⟨running, short, expected⟩ := hear
  rw [exec_hostFrame frame, hostCommand_heard _ running short expected, decoded, len, immediate_runs _ _ _ (by simpa using room)]
  simp [State.withHostFramer, answer]

theorem decodeRequest_declareObject (tag : Byte) (p : List Byte) :
    decodeRequest 0x14 tag p = immediate 0x14 tag (p.length == 5) (answerDeclare p) := rfl

/-! ### What is read from the payload and the table -/

theorem classOf_above {b : Byte} (above : 7 < b.toNat) : classOf b = none := by
  simp [classOf]
  omega

theorem classOf_names {b : Byte} (atMost : b.toNat ≤ 7) : classOf b = some (BitVec.ofNat 3 b.toNat) := by
  have below : b.toNat < 8 := by omega
  have low : b.extractLsb' 0 3 = BitVec.ofNat 3 b.toNat := by simp [BitVec.extractLsb']
  rw [classOf, if_pos below, low]

/-- The slot found FREE is the lowest-numbered one (R54, R77). -/
theorem lowestFree_eq_some {s : State} {i : SlotNo} : lowestFree s.slots = some i ↔ LowestFree s i := by
  rw [lowestFree, List.find?_eq_some_iff_getElem]
  constructor
  · rintro ⟨free, k, bound, rfl, before⟩
    refine ⟨by simpa using free, fun j below => ?_⟩
    simpa using before j.val (by simpa using below)
  · rintro ⟨free, before⟩
    refine ⟨by simpa using free, i.val, by simp, by simp, fun j below => ?_⟩
    simpa using before ⟨j, below.trans i.isLt⟩ below

/-- Some slot is found for an id exactly when one that is not FREE holds it (R47). -/
theorem findObject_isSome {slots : Table Slot 128} {id : ObjId} :
    (findObject slots id).isSome = true ↔ ∃ j, (slots.get j).phase ≠ .free ∧ (slots.get j).id = id := by
  simp [findObject, List.find?_isSome]

/-! ### DECLARE_OBJECT (R54) -/

section Declare

variable {s : State} {p : List Byte}

theorem answerDeclare_zeroId (zero : objIdAt p = 0) : answerDeclare p s = (s, .badValue, []) := by
  simp [answerDeclare, zero]

theorem answerDeclare_badClass (above : 7 < (byteAt p 4).toNat) : answerDeclare p s = (s, .badValue, []) := by
  simp [answerDeclare, classOf_above above]

section Legal

variable (id : objIdAt p ≠ 0#32) (cls : (byteAt p 4).toNat ≤ 7)

include id cls

theorem answerDeclare_exists (held : ∃ j, (s.slots.get j).phase ≠ .free ∧ (s.slots.get j).id = objIdAt p) :
    answerDeclare p s = (s, .objectExists, []) := by
  simp [answerDeclare, id, classOf_names cls, findObject_isSome.2 held]

variable (unknown : Unknown s (objIdAt p))

include unknown

theorem answerDeclare_tableFull (full : ∀ j, (s.slots.get j).phase ≠ .free) : answerDeclare p s = (s, .tableFull, []) := by
  simp [answerDeclare, id, classOf_names cls, findObject_none.2 unknown, lowestFree_none.2 full]

theorem answerDeclare_takes {i : SlotNo} (lowest : LowestFree s i) :
    answerDeclare p s = (s.withSlots (s.slots.set i
      (Slot.entered (objIdAt p) (BitVec.ofNat 3 (byteAt p 4).toNat) s.params.quietTime)), .ok, [BitVec.ofNat 8 i.val]) := by
  simp [answerDeclare, id, classOf_names cls, findObject_none.2 unknown, lowestFree_eq_some.2 lowest]

end Legal

end Declare

/-! ### The obligation -/

/-- Settles O37, a check of R54 at a time. -/
theorem declareObjectTakesASlot : Obligations.DeclareObjectTakesASlot := by
  intro s tag p hear room five id answers
  have answered {s' : State} {r : Result} {body : List Byte} (answer : answerDeclare p (heard s) = (s', r, body)) : answers r body s' :=
    exec_immediate_answers rfl (decodeRequest_declareObject tag p) hear room (beq_iff_eq.2 five) answer
  refine ⟨?zeroId, ?badClass, fun nonzero atMost => ⟨?held, fun unknown => ⟨?full, ?takes⟩⟩⟩
  case zeroId => exact fun zero => answered (answerDeclare_zeroId zero)
  case badClass => exact fun _ above => answered (answerDeclare_badClass above)
  case held => exact fun held => answered (answerDeclare_exists nonzero atMost held)
  case full => exact fun full => answered (answerDeclare_tableFull nonzero atMost unknown full)
  case takes => exact fun i lowest => answered (answerDeclare_takes (s := heard s) nonzero atMost unknown lowest)

end Sys2Proof.Machine
end

section
/-! SUPPORT. The Event Queue as the pin reset leaves it, and the obligation about it. -/

namespace Sys2Proof.Machine

/-! ### The queue at reset and the ATTN level -/

@[simp] theorem EventQueue.reset_free : EventQueue.reset.free = 96 := rfl

/-- The mask at reset leaves no priority out (R131). -/
theorem EventQueue.reset_mask_enables (p : Fin 8) : EventQueue.reset.mask.getLsbD p.val = true :=
  BitVec.getLsbD_allOnes.trans (decide_eq_true p.isLt)

/-- ATTN is high only after the host has armed it (R127). -/
theorem State.attn_of_disarmed {s : State} (disarmed : s.eq.armed = false) : s.attn = false := by
  simp [State.attn, disarmed]

/-! ### The pin reset -/

/-- What PIN_RESET answers, in named updates: the queue of commands and the pace index go on, the rest starts anew (R181). -/
theorem exec_pinReset (hrate frate : Bool) (s : State) : exec (.pinReset hrate frate) s =
    .next (((State.afterReset hrate frate).withPending s.pending).withPaceIndex s.paceIndex) := rfl

@[simp] theorem State.afterReset_eq (hrate frate : Bool) : (State.afterReset hrate frate).eq = EventQueue.reset := rfl

/-- Settles O7: the state after a pin reset holds the queue's reset value, and a disarmed ATTN is low. -/
theorem pinResetFreesEveryEntry : Obligations.PinResetFreesEveryEntry := by
  intro hrate frate s
  have ran := exec_pinReset hrate frate s
  have queue : (((State.afterReset hrate frate).withPending s.pending).withPaceIndex s.paceIndex).eq = EventQueue.reset := by simp
  refine ⟨_, ran, ?_⟩
  have low := State.attn_of_disarmed (congrArg EventQueue.armed queue)
  rw [queue]
  exact ⟨EventQueue.reset_free, rfl, rfl, rfl, rfl, rfl, rfl, rfl, EventQueue.reset_mask_enables, low⟩

end Sys2Proof.Machine
end

section
/-! SUPPORT. PING and the two deferred requests at their decode: what each check finds, said once, and the obligations about them. -/

namespace Sys2Proof.Machine

/-! ### From the command to the decode -/

/-- The command of a host frame that is heard is the decode of its TYPE, whichever constructor carries it (R139). -/
theorem exec_hears {c : Instr} {type tag : Byte} {p : List Byte} {s : State} (frame : hostFrameOf c = some (type, tag, p))
    (hear : Hears s type tag p) : exec c s = .next (decodeRequest type tag p (heard s)) := by
  obtain ⟨running, short, expected⟩ := hear
  rw [exec_hostFrame frame, hostCommand_heard _ running short expected]
  rfl

section Immediate

variable {c : Instr} {type tag : Byte} {p : List Byte} {lengthOk : Bool} {run : State → Answer} {s : State}
  (frame : hostFrameOf c = some (type, tag, p)) (decoded : decodeRequest type tag p = immediate type tag lengthOk run)
  (hear : Hears s type tag p)

include frame decoded hear

/-- A heard immediate request of a bad length reaches no owner (R139). -/
theorem exec_immediate_badLength (room : HasRoom s) (len : lengthOk = false) :
    exec c s = .next (formReply type tag .badLength [] (heard s)) := by
  rw [exec_hears frame hear, decoded, len, immediate_badLength (s := heard s) type tag run room]

/-- A heard immediate request with no entry free is discarded (R151). -/
theorem exec_immediate_full (full : ¬ HasRoom s) : exec c s = .next (dropped s) := by
  rw [exec_hears frame hear, decoded, immediate_full (s := heard s) type tag lengthOk run (Nat.le_of_not_lt full)]
  rfl

end Immediate

theorem decodeRequest_ping (tag : Byte) (p : List Byte) :
    decodeRequest 0x01 tag p = immediate 0x01 tag (p.length ≤ 32) (answerPing p) := rfl

/-- Settles O18: the three ways an immediate request ends, with the owner's answer of R152. -/
theorem pingEchoes : Obligations.PingEchoes := by
  intro s tag p hear
  have decoded := decodeRequest_ping tag p
  refine ⟨fun room short => ?echo, fun room long => ?badLength, fun full => ?discard⟩
  case echo => exact exec_immediate_answers rfl decoded hear room (decide_eq_true short) rfl
  case badLength => exact exec_immediate_badLength rfl decoded hear room (decide_eq_false (Nat.not_le_of_lt long))
  case discard => exact exec_immediate_full rfl decoded hear full

/-! ### What the checks of R144 read -/

/-- The duplicate test of R144 compares the tag with both slots. -/
theorem tagInUse_iff {s : State} {tag : Byte} : s.hlc.tagInUse tag = true ↔ TagHeld s tag := by
  simp [HostLink.tagInUse, TagHeld]

theorem Deferred.occupied_iff {α : Type} {d : Deferred α} : d.occupied = true ↔ d ≠ .empty := by
  cases d <;> simp [Deferred.occupied, Deferred.tag?]

/-- A check that fails is answered, or the request is discarded with no entry free (R151). -/
theorem refuse_eq (type tag : Byte) (r : Result) (s : State) :
    refuse type tag r s = if s.hlc.replies.length < 6 then formReply type tag r [] s else dropRequest s := by
  unfold refuse
  simp only [freeEntries_eq_zero, ← Nat.not_lt, ite_not]

/-- The query that waits holds the class by its number (section 9.3). -/
theorem queryOf_eq (p : List Byte) : queryOf p = ⟨coordAt p 0, coordAt p 3, BitVec.ofNat 3 (byteAt p 6).toNat⟩ := by
  simp [queryOf, BitVec.extractLsb']

/-! ### The first failing check of a POST_FIX (R144) -/

section PostFix

variable {s : State} {tag : Byte} {f : Fix}

theorem postFixRefusal_badValue (bad : f.id = 0 ∨ f.reserved = true) : postFixRefusal tag f s = some .badValue :=
  if_pos bad

variable (nonzero : f.id ≠ 0#32) (reserved : f.reserved = false)

include nonzero reserved

theorem postFixRefusal_lowQuality (low : f.quality.toNat < s.params.minQuality.toNat) :
    postFixRefusal tag f s = some .lowQuality := by
  simp [postFixRefusal, nonzero, reserved, low]

variable (quality : s.params.minQuality.toNat ≤ f.quality.toNat)

include quality

theorem postFixRefusal_duplicateTag (held : TagHeld s tag) : postFixRefusal tag f s = some .duplicateTag := by
  simp [postFixRefusal, nonzero, reserved, Nat.not_lt.2 quality, tagInUse_iff, held]

theorem postFixRefusal_slotBusy (fresh : ¬ TagHeld s tag) (busy : s.hlc.fixSlot ≠ .empty) :
    postFixRefusal tag f s = some .slotBusy := by
  simp [postFixRefusal, nonzero, reserved, Nat.not_lt.2 quality, tagInUse_iff, fresh, Deferred.occupied_iff, busy]

theorem postFixRefusal_none (fresh : ¬ TagHeld s tag) (empty : s.hlc.fixSlot = .empty) : postFixRefusal tag f s = none := by
  simp [postFixRefusal, nonzero, reserved, Nat.not_lt.2 quality, tagInUse_iff, fresh, Deferred.occupied_iff, empty]

end PostFix

/-! ### The first failing check of a QUERY_POINT (R144) -/

section QueryPoint

variable {s : State} {tag cls : Byte}

theorem queryRefusal_badValue (above : 7 < cls.toNat) : queryRefusal tag cls s = some .badValue := by
  simp [queryRefusal, classOf_above above]

variable (atMost : cls.toNat ≤ 7)

include atMost

theorem queryRefusal_duplicateTag (held : TagHeld s tag) : queryRefusal tag cls s = some .duplicateTag := by
  simp [queryRefusal, classOf_names atMost, tagInUse_iff, held]

theorem queryRefusal_slotBusy (fresh : ¬ TagHeld s tag) (busy : s.hlc.querySlot ≠ .empty) :
    queryRefusal tag cls s = some .slotBusy := by
  simp [queryRefusal, classOf_names atMost, tagInUse_iff, fresh, Deferred.occupied_iff, busy]

theorem queryRefusal_none (fresh : ¬ TagHeld s tag) (empty : s.hlc.querySlot = .empty) : queryRefusal tag cls s = none := by
  simp [queryRefusal, classOf_names atMost, tagInUse_iff, fresh, Deferred.occupied_iff, empty]

end QueryPoint

/-! ### From the checks to the command -/

/-- A heard request whose decode refuses it is answered, or discarded with no entry free (R144, R151). -/
theorem exec_refuses {c : Instr} {type tag : Byte} {p : List Byte} {s : State} {r : Result}
    (frame : hostFrameOf c = some (type, tag, p)) (hear : Hears s type tag p)
    (refusal : decodeRequest type tag p (heard s) = refuse type tag r (heard s)) :
    exec c s = .next (if s.hlc.replies.length < 6 then formReply type tag r [] (heard s) else dropped s) := by
  rw [exec_hears frame hear, refusal, refuse_eq]
  rfl

section Decode

variable {tag : Byte} {p : List Byte} {s : State}

theorem decodeRequest_postFix_refuses {r : Result} (len : p.length = 15) (failing : postFixRefusal tag (fixOf p) s = some r) :
    decodeRequest 0x15 tag p s = refuse 0x15 tag r s := by
  change requestPostFix tag p s = _
  simp [requestPostFix, len, failing]

theorem decodeRequest_postFix_waits (len : p.length = 15) (passing : postFixRefusal tag (fixOf p) s = none) :
    decodeRequest 0x15 tag p s = s.withHlc { s.hlc with fixSlot := .waiting tag (fixOf p) } := by
  change requestPostFix tag p s = _
  simp [requestPostFix, len, passing]

theorem decodeRequest_queryPoint_refuses {r : Result} (len : p.length = 7) (failing : queryRefusal tag (byteAt p 6) s = some r) :
    decodeRequest 0x1E tag p s = refuse 0x1E tag r s := by
  change requestQueryPoint tag p s = _
  simp [requestQueryPoint, len, failing]

theorem decodeRequest_queryPoint_waits (len : p.length = 7) (passing : queryRefusal tag (byteAt p 6) s = none) :
    decodeRequest 0x1E tag p s = s.withHlc { s.hlc with querySlot := .waiting tag (queryOf p) } := by
  change requestQueryPoint tag p s = _
  simp [requestQueryPoint, len, passing]

end Decode

/-! ### The obligation -/

/-- Settles O17: for each request the checks of R144 in order, each with its equation, and the slot it waits in when none fails. -/
theorem deferredRequestsAreChecked : Obligations.DeferredRequestsAreChecked := by
  intro s tag p
  refine ⟨fun hear len => ?postFix, fun hear len => ?queryPoint⟩
  case postFix =>
    intro f refused
    have refuses {r : Result} (failing : postFixRefusal tag f (heard s) = some r) : refused r :=
      exec_refuses rfl hear (decodeRequest_postFix_refuses len failing)
    refine ⟨fun bad => ?_, fun nonzero reserved => ⟨fun low => ?_, fun quality => ⟨fun held => ?_, fun fresh =>
      ⟨fun busy => ?_, fun empty => ?_⟩⟩⟩⟩
    · exact refuses (postFixRefusal_badValue bad)
    · exact refuses (postFixRefusal_lowQuality nonzero reserved low)
    · exact refuses (postFixRefusal_duplicateTag nonzero reserved quality held)
    · exact refuses (postFixRefusal_slotBusy nonzero reserved quality fresh busy)
    · rw [exec_hears rfl hear,
        decodeRequest_postFix_waits len (postFixRefusal_none (s := heard s) nonzero reserved quality fresh empty)]
  case queryPoint =>
    intro refused
    have refuses {r : Result} (failing : queryRefusal tag (byteAt p 6) (heard s) = some r) : refused r :=
      exec_refuses rfl hear (decodeRequest_queryPoint_refuses len failing)
    refine ⟨fun above => ?_, fun atMost => ⟨fun held => ?_, fun fresh => ⟨fun busy => ?_, fun empty => ?_⟩⟩⟩
    · exact refuses (queryRefusal_badValue above)
    · exact refuses (queryRefusal_duplicateTag atMost held)
    · exact refuses (queryRefusal_slotBusy atMost fresh busy)
    · rw [exec_hears rfl hear,
        decodeRequest_queryPoint_waits len (queryRefusal_none (s := heard s) atMost fresh empty), queryOf_eq]

end Sys2Proof.Machine
end

section
/-! SUPPORT. What a step can do, said once: every command and every idle step is a sequence of moves, so that whatever each move keeps, every
step keeps. -/

namespace Sys2Proof.Machine

-- Declarations one after another here and in the sections below: each parallel thread reserves a stack the check counts as memory.
set_option Elab.async false

/-! ### Moves of the Zone Store -/

/-- What one drafting request can do to the Zone Store (R29, R31 to R35). -/
inductive StoreMove (zs : ZoneStore) : ZoneStore → Prop
  /-- A refused request, or one that reads. -/
  | same : StoreMove zs zs
  /-- An entry is replaced by one that holds no chain. -/
  | replace (z : ZoneId) (e : DraftEntry) (chainless : e.chain = [])
      (legal : ∀ pool, e.legal pool (zs.active.get z)) : StoreMove zs (zs.replaceEntry z e)
  /-- An entry changes and keeps its chain. -/
  | set (z : ZoneId) (e : DraftEntry) (chain : e.chain = (zs.draft.get z).chain)
      (attrs : ∀ a, e.attrs? = some a → a.legal = true ∨ (zs.draft.get z).attrs? = some a)
      (legal : (zs.draft.get z).legal zs.pool (zs.active.get z) → e.legal zs.pool (zs.active.get z)) : StoreMove zs (zs.setEntry z e)
  /-- An open outline takes blocks from the free list and gains vertices. -/
  | append (z : ZoneId) (rule : FillRule) (a : Attrs) (n need : Nat) (chain : List BlockNo) (vs : List Point)
      (entry : zs.draft.get z = .opened rule a n chain) (total : n + vs.length ≤ 512)
      (blocks : need = blocksFor (n + vs.length) - blocksFor n) (space : need ≤ zs.freeList.length) :
      StoreMove zs
        { zs with
          freeList := zs.freeList.drop need
          pool := writeVertices zs.pool (chain ++ zs.freeList.take need) n vs
          draft := zs.draft.set z (.opened rule a (n + vs.length) (chain ++ zs.freeList.take need)) }
  /-- Every entry returns to INHERIT. -/
  | discard : StoreMove zs { zs with freeList := zs.freeList ++ zs.draftChains, draft := Table.fill 64 .inherit }

/-- A request whose zone id is refused does nothing, so only the zone it names matters (R22). -/
theorem withZone_move {zs : ZoneStore} {b : Byte} {f : ZoneId → ZoneAnswer} (h : ∀ z, StoreMove zs (f z).1) :
    StoreMove zs (withZone zs b f).1 := by
  unfold withZone
  split
  · exact .same
  · exact h _

theorem defineZone_move (p : List Byte) (zs : ZoneStore) : StoreMove zs (zs.defineZone p).1 := by
  refine withZone_move fun z => ?_
  dsimp only
  split
  · exact .same
  split
  · exact .same
  rename_i counts
  have legal : (attrsAt p 2).legal = true := by simpa using counts
  have blocks : blocksFor 0 = 0 := rfl
  split
  · split
    · rename_i extent
      exact .replace z _ rfl fun pool => ⟨extent, legal⟩
    · exact .same
  · exact .replace z _ rfl fun pool => ⟨legal, by omega, rfl⟩
  · exact .replace z _ rfl fun pool => ⟨legal, by omega, rfl⟩

theorem amendZone_move (p : List Byte) (zs : ZoneStore) : StoreMove zs (zs.amendZone p).1 := by
  refine withZone_move fun z => ?_
  dsimp only
  split
  · exact .same
  rename_i counts
  have new : (attrsAt p 1).legal = true := by simpa using counts
  split
  · rename_i entry
    split
    · rename_i live
      exact .set z _ (by rw [entry]; rfl) (by simp [DraftEntry.attrs?, new]) fun _ => ⟨new, live⟩
    · exact .same
  · rename_i entry
    refine .set z _ (by rw [entry]; rfl) (by simp [DraftEntry.attrs?, new]) fun old => ?_
    rw [entry] at old
    exact ⟨new, old.2⟩
  · rename_i entry
    refine .set z _ (by rw [entry]; rfl) (by simp [DraftEntry.attrs?, new]) fun old => ?_
    rw [entry] at old
    exact ⟨old.1, new⟩
  · rename_i entry
    refine .set z _ (by rw [entry]; rfl) (by simp [DraftEntry.attrs?, new]) fun old => ?_
    rw [entry] at old
    exact ⟨new, old.2⟩
  · exact .same

@[simp] theorem verticesAt_length (p : List Byte) (k : Nat) : (verticesAt p k).length = k := by
  simp [verticesAt]

theorem addVertices_move (p : List Byte) (zs : ZoneStore) : StoreMove zs (zs.addVertices p).1 := by
  refine withZone_move fun z => ?_
  dsimp only
  split
  · exact .same
  split
  · rename_i rule a n chain entry
    split
    · exact .same
    split
    · exact .same
    · rename_i total space
      have move := StoreMove.append (zs := zs) z rule a n _ chain (verticesAt p (byteAt p 1).toNat) entry
        (by rw [verticesAt_length]; omega) rfl (by rw [verticesAt_length]; omega)
      simpa only [verticesAt_length] using move
  · exact .same

@[simp] theorem verticesOf_length (pool : Table Block 512) (chain : List BlockNo) (n : Nat) : (verticesOf pool chain n).length = n := by
  simp [verticesOf]

theorem closeZone_move (p : List Byte) (zs : ZoneStore) : StoreMove zs (zs.closeZone p).1 := by
  refine withZone_move fun z => ?_
  dsimp only
  split
  · rename_i rule a n chain entry
    split
    · exact .same
    · rename_i shape
      simp only [not_or, Bool.not_eq_true] at shape
      obtain ⟨three, extent⟩ := shape
      refine .set z _ (by rw [entry]; rfl) (by simp [DraftEntry.attrs?, entry]) fun old => ?_
      rw [entry] at old
      obtain ⟨legal, atMost, blocks⟩ := old
      exact ⟨⟨by omega, atMost, blocks, extent, rfl⟩, legal⟩
  · exact .same

theorem deleteZone_move (p : List Byte) (zs : ZoneStore) : StoreMove zs (zs.deleteZone p).1 := by
  refine withZone_move fun z => ?_
  split
  · rename_i live
    exact .replace z _ rfl fun _ => live
  · split
    · exact .same
    · exact .replace z _ rfl fun _ => trivial

theorem readZone_same (p : List Byte) (zs : ZoneStore) : (zs.readZone p).1 = zs := by
  unfold ZoneStore.readZone withZone
  split
  · rfl
  · dsimp only
    split <;> rfl

theorem vertexAnswer_same (zs : ZoneStore) (vs : List Point) (first : Nat) : (zs.vertexAnswer vs first).1 = zs := by
  unfold ZoneStore.vertexAnswer
  split <;> rfl

theorem readVertices_same (p : List Byte) (zs : ZoneStore) : (zs.readVertices p).1 = zs := by
  unfold ZoneStore.readVertices withZone
  split
  · rfl
  · dsimp only
    split
    · exact vertexAnswer_same ..
    · exact vertexAnswer_same ..
    · rfl

/-! ### Moves of the part -/

/-- One thing the part does within a step, each complete in itself: what holds of the part between commands holds again after it. `ok` says
whether the framers were sound before the step, and so how a framer may be left. -/
inductive Move (ok : Prop) (s : State) : State → Prop
  | pinReset (hrate frate : Bool) : Move ok s (((State.afterReset hrate frate).withPending s.pending).withPaceIndex s.paceIndex)
  | resetnLow : Move ok s (((s.withResetn false).withHlc { s.hlc with hhold := false }).withFlr { s.flr with fhold := false })
  | hostFramer (f : Framer) (sound : ok → f.sound) : Move ok s (s.withHostFramer f)
  | feedFramer (f : Framer) (sound : ok → f.sound) : Move ok s (s.withFeedFramer f)
  | hostMarks (drop : Bool) (n : BitVec 16) : Move ok s (s.withHlc { s.hlc with dropped := drop, discarded := n })
  | feedMarks (m n : BitVec 16) : Move ok s (s.withFlr { s.flr with framesDiscarded := m, fixesDiscarded := n })
  | reply (type tag : Byte) (r : Result) (body : List Byte) (room : s.hlc.replies.length < 6) : Move ok s (formReply type tag r body s)
  | departs : Move ok s (replyDeparts s)
  | postFix (tag : Byte) (f : Fix) (passes : postFixRefusal tag f s = none) : Move ok s (s.withHlc { s.hlc with fixSlot := .waiting tag f })
  | postQuery (tag cls : Byte) (q : Query) (passes : queryRefusal tag cls s = none) :
      Move ok s (s.withHlc { s.hlc with querySlot := .waiting tag q })
  | setParam (id : Byte) (v : Nat) (q : Params) (allowed : s.params.set id v = some q) : Move ok s (s.withParams q)
  | restart : Move ok s (restartBlocks s)
  | store (zs : ZoneStore) (move : StoreMove s.zs zs) : Move ok s (s.withZs zs)
  | commit (closed : ∀ z, (s.zs.draft.get z).isOpen = false) : Move ok s (applyCommit s)
  | newObject (i : SlotNo) (id : ObjId) (cls : BitVec 3) (free : (s.slots.get i).phase = .free) (unknown : findObject s.slots id = none)
      (given : id ≠ 0 ∨ (∃ tag f, s.hlc.fixSlot = .waiting tag f ∧ f.id = id) ∨ ∃ f ∈ s.flr.queue, f.id = id) :
      Move ok s (s.withSlots (s.slots.set i (Slot.entered id cls s.params.quietTime)))
  | stale (i : SlotNo) (held : (s.slots.get i).phase ≠ .free) : Move ok s (countStale i s)
  | free (i : SlotNo) : Move ok s (freeSlot i s)
  | reconcile : Move ok s (reconcile s)
  | retire (i : SlotNo) (cause : RetireCause) (some_cause : cause ≠ .none)
      (phase : (s.slots.get i).phase = .tracked ∨ (s.slots.get i).phase = .quiet) : Move ok s (retireObject i cause s)
  | quiet (i : SlotNo) (phase : (s.slots.get i).phase = .tracked) : Move ok s (becomeQuiet i s)
  | write (c : Context) (i : SlotNo) (f : Fix) (holds : stillHolds (s.slots.get i) f.id = true) : Move ok s (writeCompletion c i f s)
  | take (e : Event) (rest : List Event) (keepArmed : Bool) (room : s.eq.held.length < 8) (first : s.eq.waiting = e :: rest) :
      Move ok s (s.withEq (s.eq.take e rest keepArmed s.params.redeliverTime))
  | release (seq : BitVec 16) : Move ok s (entryFreed (s.withEq (s.eq.dropHeld seq)))
  | releaseLate (seq : BitVec 16) : Move ok s (entryFreed (s.withEq (s.eq.dropWaiting seq)))
  | arm (mask : ClassSet) (armed : Bool) : Move ok s (s.withEq { s.eq with mask := mask, armed := armed })
  | redeliver (h : Held) (held : h ∈ s.eq.held) : Move ok s (redeliver h s)
  | expireHeld : Move ok s (s.eq.held.foldl expireHeld s)
  | report (k : SystemKind) (id : ObjId) : Move ok s (reportSystem k id s)
  | pointer (src : Source) : Move ok s (s.withEv { s.ev with pointer := src })
  | queueFix (f : Fix) (named : f.id ≠ 0) (room : s.flr.queue.length < 32) :
      Move ok s (s.withFlr (FeedLink.settle { s.flr with queue := s.flr.queue ++ [f] }))
  | popFix (f : Fix) (rest : List Fix) (first : s.flr.queue = f :: rest) : Move ok s (s.withFlr (FeedLink.settle { s.flr with queue := rest }))
  | openHostFix (tag : Byte) (f : Fix) (i : SlotNo) (idle : s.ev.context = none) (waits : s.hlc.fixSlot = .waiting tag f) :
      Move ok s (openContext (.hostFix i f) (s.withHlc { s.hlc with fixSlot := .granted tag f }))
  | openQuery (tag : Byte) (q : Query) (idle : s.ev.context = none) (waits : s.hlc.querySlot = .waiting tag q) :
      Move ok s (openContext (.query q s.zs.generation) (s.withHlc { s.hlc with querySlot := .granted tag q }))
  | openFeedFix (f : Fix) (i : SlotNo) (idle : s.ev.context = none) : Move ok s (openContext (.feedFix i f) s)
  | refuseHostFix (tag : Byte) (f : Fix) (r : Result) (idle : s.ev.context = none) (waits : s.hlc.fixSlot = .waiting tag f) :
      Move ok s (becomeIdle (finishDeferred .fix r [] (s.withHlc { s.hlc with fixSlot := .granted tag f })))
  | idle (noHostFix : s.ev.ofHostFix = false) (noQuery : s.ev.ofQuery = false) : Move ok s (becomeIdle s)
  | endHostFix (r : Result) (body : List Byte) (busy : s.ev.ofHostFix = true) : Move ok s (becomeIdle (finishDeferred .fix r body s))
  | endQuery (r : Result) (body : List Byte) (busy : s.ev.ofQuery = true) : Move ok s (becomeIdle (finishDeferred .query r body s))
  | walk (n : Nat) (c : Context) (busy : s.ev.context = some c) : Move ok s (s.withEv { s.ev with context := some (walkZones s.zs n c) })

/-- Moves one after another. -/
abbrev Moves (ok : Prop) : State → State → Prop :=
  Relation.ReflTransGen (Move ok)

theorem Moves.one {ok : Prop} {s t : State} (h : Move ok s t) : Moves ok s t :=
  Relation.ReflTransGen.single h

/-- Whatever every move keeps, a sequence of moves keeps. -/
theorem Moves.keeps {ok : Prop} {P : State → Prop} (h : ∀ s t, P s → Move ok s t → P t) {s t : State} (hs : P s) (m : Moves ok s t) : P t := by
  induction m with
  | refl => exact hs
  | tail _ move ih => exact h _ _ ih move

variable {ok : Prop}

/-! ### The immediate requests -/

/-- An immediate request is a sequence of moves when its owner's answer is one that leaves the reply queue alone. -/
theorem immediate_moves (type tag : Byte) (lengthOk : Bool) {run : State → Answer} {s : State} (moves : Moves ok s (run s).1)
    (replies : (run s).1.hlc.replies = s.hlc.replies) : Moves ok s (immediate type tag lengthOk run s) := by
  by_cases room : s.hlc.replies.length < 6
  · cases lengthOk with
    | true => rw [immediate_runs _ _ _ room]; exact moves.tail (.reply _ _ _ _ (by rw [replies]; exact room))
    | false => rw [immediate_badLength _ _ _ room]; exact .one (.reply _ _ _ _ room)
  · rw [immediate_full _ _ _ _ (by omega)]
    exact .one (.hostMarks true s.hlc.discarded)

theorem zoneRequest_moves {f : ZoneStore → ZoneAnswer} (s : State) (h : StoreMove s.zs (f s.zs).1) : Moves ok s (zoneRequest f s).1 :=
  .one (.store _ h)

/-- An answer that leaves the state alone. -/
theorem moves_of_same {s t : State} (h : t = s) : Moves ok s t := by
  rw [h]

/-- The lowest open entry is found exactly when some entry is open (R36). -/
theorem lowestOpen_none {zs : ZoneStore} : zs.lowestOpen = none ↔ ∀ z, (zs.draft.get z).isOpen = false := by
  simp [ZoneStore.lowestOpen, List.find?_eq_none]

theorem commitObjects_same (changed : ZoneSet) (s : State) : SameBesides s (commitObjects changed s) := by
  have fold (l : List SlotNo) (group : SlotNo → List Notice) (u : State) :
      SameBesides u (l.foldl (fun s i => freshGroup i (group i) s) u) := by
    induction l generalizing u with
    | nil => exact .refl u
    | cons i l ih => exact (freshGroup_same i _ u).trans (ih _)
  exact fold _ _ (s.withSlots _)

theorem applyCommit_hlc (s : State) : (applyCommit s).hlc = s.hlc := by
  obtain ⟨-, -, -, -, -, -, hlc, -⟩ := commitObjects_same s.zs.changedSet
    ((s.withZs (s.zs.commit s.ev.context.isSome)).withEv (s.ev.addVoid s.zs.changedSet))
  exact hlc

theorem answerCommit_moves (s : State) : Moves ok s (answerCommit s).1 ∧ (answerCommit s).1.hlc = s.hlc := by
  unfold answerCommit
  split
  · exact ⟨.refl, rfl⟩
  · rename_i none_open
    split
    · exact ⟨.refl, rfl⟩
    · exact ⟨.one (.commit (lowestOpen_none.1 none_open)), applyCommit_hlc s⟩

theorem answerDeclare_moves (p : List Byte) (s : State) : Moves ok s (answerDeclare p s).1 ∧ (answerDeclare p s).1.hlc = s.hlc := by
  unfold answerDeclare
  dsimp only
  split
  · exact ⟨.refl, rfl⟩
  rename_i nonzero
  split
  · exact ⟨.refl, rfl⟩
  split
  · exact ⟨.refl, rfl⟩
  rename_i unknown
  split
  · exact ⟨.refl, rfl⟩
  · rename_i i lowest
    exact ⟨.one (.newObject i _ _ (lowestFree_some lowest) (by simpa using unknown) (.inl nonzero)), rfl⟩

theorem retireSilently_moves (i : SlotNo) (s : State) : Moves ok s (retireSilently i s) := by
  unfold retireSilently
  dsimp only
  split
  · exact (Moves.one (.free i)).tail .reconcile
  · exact .one (.free i)

theorem retireSilently_same (i : SlotNo) (s : State) : SameBesides s (retireSilently i s) := by
  unfold retireSilently
  dsimp only
  split
  · exact SameBesides.trans (t := freeSlot i s) (.refl s) (reconcile_same _)
  · exact .refl s

theorem retireObject_same (i : SlotNo) (cause : RetireCause) (s : State) : SameBesides s (retireObject i cause s) :=
  freshGroup_same _ _ (s.withSlots _)

theorem SameBesides.hlc {s t : State} (h : SameBesides s t) : t.hlc = s.hlc := by
  obtain ⟨-, -, -, -, -, -, hlc, -⟩ := h
  exact hlc

/-- A slot that is neither FREE nor RETIRING is TRACKED or QUIET (R47). -/
theorem tracked_or_quiet {sl : Slot} (free : sl.phase ≠ .free) (retiring : sl.phase ≠ .retiring) :
    sl.phase = .tracked ∨ sl.phase = .quiet := by
  cases h : sl.phase <;> simp_all

theorem answerRetire_moves (p : List Byte) (s : State) : Moves ok s (answerRetire p s).1 ∧ (answerRetire p s).1.hlc = s.hlc := by
  unfold answerRetire
  dsimp only
  split
  · exact ⟨.refl, rfl⟩
  split
  · exact ⟨.refl, rfl⟩
  rename_i i found
  split
  · exact ⟨.refl, rfl⟩
  rename_i staying
  split
  · exact ⟨retireSilently_moves i s, (retireSilently_same i s).hlc⟩
  · refine ⟨.one (.retire i .retire (by simp) ?_), (retireObject_same i .retire s).hlc⟩
    exact tracked_or_quiet (findObject_some found).1 staying

theorem answerReadObject_same (p : List Byte) (s : State) : (answerReadObject p s).1 = s := by
  unfold answerReadObject
  dsimp only
  split
  · rfl
  · split <;> rfl

theorem answerListObjects_same (p : List Byte) (s : State) : (answerListObjects p s).1 = s := by
  unfold answerListObjects
  dsimp only
  split <;> rfl

theorem entryFreed_hlc (s : State) : (entryFreed s).hlc = s.hlc :=
  (entryFreed_same s).hlc

theorem answerTake_moves (p : List Byte) (s : State) : Moves ok s (answerTake p s).1 ∧ (answerTake p s).1.hlc = s.hlc := by
  unfold answerTake
  split
  · exact ⟨.refl, rfl⟩
  · split
    · exact ⟨.refl, rfl⟩
    · rename_i room _ _ first
      exact ⟨.one (.take _ _ _ (by omega) first), rfl⟩

theorem answerRelease_moves (p : List Byte) (s : State) : Moves ok s (answerRelease p s).1 ∧ (answerRelease p s).1.hlc = s.hlc := by
  unfold answerRelease
  dsimp only
  split
  · exact ⟨.one (.release _), entryFreed_hlc _⟩
  · split
    · split
      · exact ⟨.one (.releaseLate _), entryFreed_hlc _⟩
      · exact ⟨.refl, rfl⟩
    · exact ⟨.refl, rfl⟩

theorem answerArm_moves (p : List Byte) (s : State) : Moves ok s (answerArm p s).1 ∧ (answerArm p s).1.hlc = s.hlc := by
  unfold answerArm
  split
  · exact ⟨.one (.arm _ _), rfl⟩
  · exact ⟨.one (.arm _ _), rfl⟩
  · exact ⟨.refl, rfl⟩

theorem answerSetParam_moves (p : List Byte) (s : State) : Moves ok s (answerSetParam p s).1 ∧ (answerSetParam p s).1.hlc = s.hlc := by
  unfold answerSetParam
  split
  · rename_i allowed
    exact ⟨.one (.setParam _ _ _ allowed), rfl⟩
  · exact ⟨.refl, rfl⟩

theorem answerGetParam_same (p : List Byte) (s : State) : (answerGetParam p s).1 = s := by
  unfold answerGetParam
  split <;> rfl

theorem answerStatus_moves (p : List Byte) (s : State) : Moves ok s (answerStatus p s).1 := by
  unfold answerStatus
  dsimp only
  split
  · exact (Moves.one (.hostMarks s.hlc.dropped 0)).tail (.feedMarks 0 0)
  · exact .refl

theorem answerStatus_replies (p : List Byte) (s : State) : (answerStatus p s).1.hlc.replies = s.hlc.replies := by
  unfold answerStatus
  dsimp only
  split <;> rfl

/-! ### The deferred requests and RESTART -/

theorem refuse_moves (type tag : Byte) (r : Result) (s : State) : Moves ok s (refuse type tag r s) := by
  rw [refuse_eq]
  split
  · rename_i room
    exact .one (.reply _ _ _ _ room)
  · exact .one (.hostMarks true s.hlc.discarded)

theorem requestPostFix_moves (tag : Byte) (p : List Byte) (s : State) : Moves ok s (requestPostFix tag p s) := by
  unfold requestPostFix
  dsimp only
  split
  · exact refuse_moves ..
  · split
    · exact refuse_moves ..
    · rename_i passes
      exact .one (.postFix _ _ passes)

theorem requestQueryPoint_moves (tag : Byte) (p : List Byte) (s : State) : Moves ok s (requestQueryPoint tag p s) := by
  unfold requestQueryPoint
  split
  · exact refuse_moves ..
  · split
    · exact refuse_moves ..
    · rename_i passes
      exact .one (.postQuery _ _ _ passes)

/-- An ABORTED reply is placed for an occupied slot alone (R179). -/
theorem abortSlot_moves (d : DeferredSlot) (tag? : Option Byte) {s : State} (room : s.hlc.replies.length + tag?.isSome.toNat ≤ 6) :
    Moves ok s (abortSlot d tag? s) := by
  cases tag? with
  | none => exact .refl
  | some tag => exact .one (.reply _ _ _ _ (by simpa using room))

theorem abortSlot_replies_length (d : DeferredSlot) (tag? : Option Byte) (s : State) :
    (abortSlot d tag? s).hlc.replies.length = s.hlc.replies.length + tag?.isSome.toNat := by
  cases tag? <;> simp [abortSlot]

theorem applyRestart_moves (tag : Byte) {s : State} (room : restartReplies s.hlc ≤ s.hlc.freeEntries) :
    Moves ok s (applyRestart tag s) := by
  simp only [restartReplies, HostLink.freeEntries, Deferred.occupied] at room
  have first := abortSlot_replies_length .fix s.hlc.fixSlot.tag? s
  have second := abortSlot_replies_length .query s.hlc.querySlot.tag? (abortSlot .fix s.hlc.fixSlot.tag? s)
  refine (((abortSlot_moves .fix _ (by omega)).trans (abortSlot_moves .query _ (by omega))).tail .restart).tail (.reply _ _ _ _ ?_)
  show (abortSlot .query s.hlc.querySlot.tag? (abortSlot .fix s.hlc.fixSlot.tag? s)).hlc.replies.length < 6
  omega

theorem requestRestart_moves (tag : Byte) (p : List Byte) (s : State) : Moves ok s (requestRestart tag p s) := by
  unfold requestRestart
  split
  · exact immediate_moves _ _ _ .refl rfl
  · split
    · exact .one (.hostMarks true s.hlc.discarded)
    · exact applyRestart_moves tag (by omega)

/-- The decode of every well-formed frame is a sequence of moves (R139). -/
theorem decodeRequest_moves (type tag : Byte) (p : List Byte) (s : State) : Moves ok s (decodeRequest type tag p s) := by
  have owner (type : Byte) (lengthOk : Bool) {run : State → Answer} (h : Moves ok s (run s).1 ∧ (run s).1.hlc = s.hlc) :
      Moves ok s (immediate type tag lengthOk run s) := immediate_moves _ _ _ h.1 (by rw [h.2])
  have store (type : Byte) (lengthOk : Bool) {f : ZoneStore → ZoneAnswer} (h : StoreMove s.zs (f s.zs).1) :
      Moves ok s (immediate type tag lengthOk (zoneRequest f) s) := immediate_moves _ _ _ (zoneRequest_moves s h) rfl
  have reads (type : Byte) (lengthOk : Bool) {run : State → Answer} (h : (run s).1 = s) :
      Moves ok s (immediate type tag lengthOk run s) := immediate_moves _ _ _ (moves_of_same h) (by rw [h])
  unfold decodeRequest
  split
  · exact reads _ _ rfl
  · exact immediate_moves _ _ _ (answerStatus_moves p s) (answerStatus_replies p s)
  · exact requestRestart_moves tag p s
  · exact owner _ _ (answerSetParam_moves p s)
  · exact reads _ _ (answerGetParam_same p s)
  · exact store _ _ (defineZone_move p s.zs)
  · exact store _ _ (amendZone_move p s.zs)
  · exact store _ _ (addVertices_move p s.zs)
  · exact store _ _ (closeZone_move p s.zs)
  · exact store _ _ (deleteZone_move p s.zs)
  · exact store _ _ .discard
  · exact owner _ _ (answerCommit_moves s)
  · exact reads _ _ (by rw [zoneRequest, readZone_same]; rfl)
  · exact reads _ _ (by rw [zoneRequest, readVertices_same]; rfl)
  · exact owner _ _ (answerDeclare_moves p s)
  · exact requestPostFix_moves tag p s
  · exact owner _ _ (answerRetire_moves p s)
  · exact reads _ _ (answerReadObject_same p s)
  · exact reads _ _ (answerListObjects_same p s)
  · exact owner _ _ (answerTake_moves p s)
  · exact owner _ _ (answerRelease_moves p s)
  · exact owner _ _ (answerArm_moves p s)
  · exact requestQueryPoint_moves tag p s
  · exact reads _ _ rfl

/-! ### The framers -/

theorem Framer.byte_sound {f : Framer} (h : f.sound) (b : Byte) : (f.byte b).1.sound := by
  cases f with
  | hunt =>
    simp only [Framer.byte]
    split <;> simp [Framer.sound]
  | frame stored gap =>
    cases stored with
    | nil =>
      simp only [Framer.byte]
      split
      · rename_i good
        exact ⟨good, by simp, by simp⟩
      · trivial
    | cons len body =>
      simp only [Framer.byte]
      split
      · rename_i short
        exact ⟨h.1, by simpa using short, by simp⟩
      · split <;> trivial

theorem Framer.examine_sound (n : Nat) {f : Framer} (h : f.sound) (bs : List Byte) : (Framer.examine n f bs).1.sound := by
  induction n generalizing f bs with
  | zero => cases bs <;> exact h
  | succ n ih =>
    cases bs with
    | nil => exact h
    | cons b bs => exact ih (Framer.byte_sound h b) _

theorem Framer.receive_sound {f : Framer} (h : f.sound) (bs : List Byte) : (f.receive bs).1.sound :=
  Framer.examine_sound _ h bs

/-! ### The host link -/

theorem hostItem_moves (s : State) (item : LinkItem) : Moves ok s (hostItem s item) := by
  cases item with
  | frame type tag p => exact decodeRequest_moves type tag p s
  | crcFail => exact .one (.hostMarks s.hlc.dropped _)

/-- A fold of steps that are each a sequence of moves. -/
theorem foldl_moves {α : Type} {f : State → α → State} (h : ∀ s a, Moves ok s (f s a)) (l : List α) (s : State) :
    Moves ok s (l.foldl f s) := by
  induction l generalizing s with
  | nil => exact .refl
  | cons a l ih => exact (h s a).trans (ih _)

theorem hostBytes_moves (bs : List Byte) {s : State} (sound : ok → s.hlc.framer.sound) : Moves ok s (hostBytes bs s) :=
  ((Moves.one (.hostFramer .hunt fun _ => trivial)).trans (foldl_moves hostItem_moves _ _)).tail
    (.hostFramer _ fun h => Framer.receive_sound (sound h) bs)

theorem hostFrame_moves {type tag : Byte} {p : List Byte} {request : State → State} (h : ∀ s, Moves ok s (request s)) {s : State}
    (sound : ok → s.hlc.framer.sound) : Moves ok s (hostFrame type tag p request s) := by
  unfold hostFrame
  split
  · exact (Moves.one (.hostFramer .hunt fun _ => trivial)).trans (h _)
  · exact hostBytes_moves _ sound

/-! ### The feed link -/

theorem receiveFix_moves (s : State) (f : Fix) : Moves ok s (receiveFix s f) := by
  unfold receiveFix
  split
  · exact .one (.feedMarks _ _)
  rename_i good
  split
  · exact (Moves.one (.feedMarks _ _)).tail (.report _ _)
  · rename_i room
    refine .one (.queueFix f ?_ (by simpa [fixQueueSize] using room))
    intro zero
    simp [badFix, zero] at good

theorem receiveFixes_moves (fixes : List Fix) (s : State) : Moves ok s (receiveFixes fixes s) :=
  foldl_moves receiveFix_moves fixes s

theorem discardFeedFrame_moves (s : State) : Moves ok s (discardFeedFrame s) :=
  .one (.feedMarks _ _)

theorem feedFrame_moves (type : Byte) (p : List Byte) (s : State) : Moves ok s (feedFrame type p s) := by
  unfold feedFrame
  split
  · exact receiveFixes_moves _ s
  · exact discardFeedFrame_moves s

theorem feedItem_moves (s : State) (item : LinkItem) : Moves ok s (feedItem s item) := by
  cases item with
  | frame type tag p => exact feedFrame_moves type p s
  | crcFail => exact discardFeedFrame_moves s

theorem feedBytes_moves (bs : List Byte) {s : State} (sound : ok → s.flr.framer.sound) : Moves ok s (feedBytes bs s) :=
  ((Moves.one (.feedFramer .hunt fun _ => trivial)).trans (foldl_moves feedItem_moves _ _)).tail
    (.feedFramer _ fun h => Framer.receive_sound (sound h) bs)

theorem feedFrameArrives_moves {type tag : Byte} {p : List Byte} {act : State → State} (h : ∀ s, Moves ok s (act s)) {s : State}
    (sound : ok → s.flr.framer.sound) : Moves ok s (feedFrameArrives type tag p act s) := by
  unfold feedFrameArrives
  split
  · exact (Moves.one (.feedFramer .hunt fun _ => trivial)).trans (h _)
  · exact feedBytes_moves _ sound

/-! ### The Evaluator -/

/-- The six things the start checks can find, with what each says of the table (R76). -/
theorem startChecks_cases (f : Fix) (s : State) :
    startChecks f s = .objectState ∨ startChecks f s = .noObject ∨ startChecks f s = .tableFull ∨
    (∃ i, startChecks f s = .staleFix i ∧ (s.slots.get i).phase ≠ .free) ∨
    (∃ i, startChecks f s = .accepted i) ∨
    (∃ i, startChecks f s = .admitted i ∧ (s.slots.get i).phase = .free ∧ findObject s.slots f.id = none) := by
  unfold startChecks
  split
  · rename_i i found
    have held := (findObject_some found).1
    dsimp only
    split
    · simp
    · split
      · simp
      · split <;> simp [held]
  · rename_i unknown
    split
    · split
      · simp
      · rename_i i lowest
        simp [unknown, lowestFree_some lowest]
    · simp

/-- A granted fix is refused, or opened with its object admitted first if it is unknown (R76 to R79). What the grant itself changes, by `g`, is
done first; the start checks do not see it. -/
theorem openFix_moves {f : Fix} {job : SlotNo → Job} {refused : Result → State → State} {g : State → State} {s : State}
    (checks : startChecks f (g s) = startChecks f s)
    (slots : ∀ v, (g s).withSlots v = g (s.withSlots v)) (queue : ∀ v, (g s).withEq v = g (s.withEq v))
    (same : (g s).slots = s.slots ∧ (g s).eq = s.eq ∧ (g s).params = s.params)
    (given : (∃ tag f', s.hlc.fixSlot = .waiting tag f' ∧ f'.id = f.id) ∨ ∃ f' ∈ s.flr.queue, f'.id = f.id)
    (opens : ∀ u i, SameBesides s u → Moves ok u (openContext (job i) (g u)))
    (refuses : ∀ u r, SameBesides s u → Moves ok u (becomeIdle (refused r (g u)))) :
    Moves ok s (openFix f job refused (g s)) := by
  obtain ⟨sameSlots, sameEq, sameParams⟩ := same
  unfold openFix
  rw [checks]
  rcases startChecks_cases f s with h | h | h | ⟨i, h, held⟩ | ⟨i, h⟩ | ⟨i, h, free, unknown⟩ <;> rw [h] <;> dsimp only
  · exact refuses s _ (.refl s)
  · exact refuses s _ (.refl s)
  · refine (Moves.one (.report .admitRefused f.id)).trans ?_
    have e : reportSystem .admitRefused f.id (g s) = g (reportSystem .admitRefused f.id s) := by
      simp only [reportSystem, queue, sameEq, sameParams]
    rw [e]
    exact refuses _ _ (.refl s)
  · refine (Moves.one (.stale i held)).trans ?_
    have e : countStale i (g s) = g (countStale i s) := by
      simp only [countStale, slots, sameSlots]
    rw [e]
    exact refuses _ _ (.refl s)
  · exact opens s i (.refl s)
  · refine (Moves.one (.newObject i f.id f.cls free unknown (.inr given))).trans ?_
    rw [slots, sameSlots, sameParams]
    exact opens _ i (.refl s)

theorem SameBesides.ev {s t : State} (h : SameBesides s t) : t.ev = s.ev := by
  obtain ⟨-, -, -, -, -, ev, -⟩ := h
  exact ev

theorem SameBesides.flr {s t : State} (h : SameBesides s t) : t.flr = s.flr := by
  obtain ⟨-, -, -, -, -, -, -, flr, -⟩ := h
  exact flr

theorem grantHostFix_moves {s : State} (idle : s.ev.context = none) : Moves ok s (grantHostFix s) := by
  unfold grantHostFix
  split
  · rename_i tag f waits
    refine openFix_moves (g := fun u => u.withHlc { u.hlc with fixSlot := .granted tag f }) rfl (fun _ => rfl) (fun _ => rfl) ⟨rfl, rfl, rfl⟩
      (.inl ⟨tag, f, waits, rfl⟩) ?_ ?_
    · intro u i same
      exact .one (.openHostFix tag f i (by rw [same.ev]; exact idle) (by rw [same.hlc]; exact waits))
    · intro u r same
      exact .one (.refuseHostFix tag f r (by rw [same.ev]; exact idle) (by rw [same.hlc]; exact waits))
  · exact .refl

theorem grantQuery_moves {s : State} (idle : s.ev.context = none) : Moves ok s (grantQuery s) := by
  unfold grantQuery
  split
  · rename_i waits
    exact .one (.openQuery _ _ idle waits)
  · exact .refl

theorem grantFeed_moves {s : State} (idle : s.ev.context = none) : Moves ok s (grantFeed s) := by
  unfold grantFeed
  split
  · rename_i f rest first
    have pop {u : State} (same : SameBesides s u) : Move ok u (u.withFlr (FeedLink.settle { u.flr with queue := rest })) :=
      .popFix f rest (by rw [same.flr]; exact first)
    have still {u : State} (same : SameBesides s u) : u.ev.context = none := by rw [same.ev]; exact idle
    refine openFix_moves (g := fun u => u.withFlr (FeedLink.settle { u.flr with queue := rest })) rfl (fun _ => rfl) (fun _ => rfl)
      ⟨rfl, rfl, rfl⟩ (.inr ⟨f, by simp [first], rfl⟩) ?_ ?_
    · intro u i same
      have ready : (u.withFlr (FeedLink.settle { u.flr with queue := rest })).ev.context = none := still (u := u) same
      exact (Moves.one (pop same)).tail (.openFeedFix f i ready)
    · intro u r same
      refine ((Moves.one (pop same)).tail (.feedMarks _ _)).tail (.idle ?_ ?_)
      · show u.ev.ofHostFix = false
        simp [Evaluator.ofHostFix, still same]
      · show u.ev.ofQuery = false
        simp [Evaluator.ofQuery, still same]
  · exact .refl

theorem arbitrate_moves (s : State) : Moves ok s (arbitrate s) := by
  unfold arbitrate
  split
  · exact .refl
  rename_i idle
  have idle : s.ev.context = none := by simpa using idle
  split
  · exact .refl
  · rename_i src _
    refine (Moves.one (.pointer src.next)).trans ?_
    have idle' : (s.withEv { s.ev with pointer := src.next }).ev.context = none := idle
    cases src with
    | hostFix => exact grantHostFix_moves idle'
    | query => exact grantQuery_moves idle'
    | feed => exact grantFeed_moves idle'

@[simp] theorem walkZone_job (zs : ZoneStore) (c : Context) : (walkZone zs c).job = c.job := by
  unfold walkZone
  split <;> rfl

@[simp] theorem walkZones_job (zs : ZoneStore) (n : Nat) (c : Context) : (walkZones zs n c).job = c.job := by
  induction n generalizing c with
  | zero => rfl
  | succ n ih => rw [walkZones, ih, walkZone_job]

@[simp] theorem walkAll_job (zs : ZoneStore) (c : Context) : (walkAll zs c).job = c.job :=
  walkZones_job zs _ c

theorem writeCompletion_same (c : Context) (i : SlotNo) (f : Fix) (s : State) : SameBesides s (writeCompletion c i f s) :=
  freshGroup_same _ _ (s.withSlots _)

theorem completeFix_moves (s : State) : Moves ok s (completeFix s) := by
  unfold completeFix
  split
  · exact .refl
  rename_i c busy
  dsimp only
  split
  · rename_i i f job
    rw [walkAll_job] at job
    have host : s.ev.ofHostFix = true := by simp [Evaluator.ofHostFix, busy, job]
    unfold completeHostFix
    split
    · rename_i holds
      exact (Moves.one (.write _ i f holds)).tail (.endHostFix _ _ (by rw [(writeCompletion_same _ i f s).ev]; exact host))
    · exact .one (.endHostFix _ _ host)
  · rename_i i f job
    rw [walkAll_job] at job
    have host : s.ev.ofHostFix = false := by simp [Evaluator.ofHostFix, busy, job]
    have query : s.ev.ofQuery = false := by simp [Evaluator.ofQuery, busy, job]
    unfold completeFeedFix
    split
    · rename_i holds
      have same := (writeCompletion_same (walkAll s.zs c) i f s).ev
      exact (Moves.one (.write _ i f holds)).tail (.idle (by rw [same]; exact host) (by rw [same]; exact query))
    · exact (Moves.one (.feedMarks _ _)).tail (.idle host query)
  · exact .refl

theorem completeQuery_moves (s : State) : Moves ok s (completeQuery s) := by
  unfold completeQuery
  split
  · exact .refl
  rename_i c busy
  dsimp only
  split
  · rename_i q g job
    rw [walkAll_job] at job
    exact .one (.endQuery _ _ (by simp [Evaluator.ofQuery, busy, job]))
  · exact .refl

/-! ### Commands and idle steps -/

theorem whenRunning_moves {f : State → State} {s : State} (h : Moves ok s (f s)) : Moves ok s (whenRunning f s) := by
  unfold whenRunning
  split
  · exact h
  · exact .refl

/-- Every command is a sequence of moves. -/
theorem exec_moves (c : Instr) {s t : State} (host : ok → s.hlc.framer.sound) (feed : ok → s.flr.framer.sound)
    (h : exec c s = .next t) : Moves ok s t := by
  cases frame : hostFrameOf c with
  | some f =>
    obtain ⟨type, tag, p⟩ := f
    rw [exec_hostFrame frame] at h
    cases h
    exact whenRunning_moves (hostFrame_moves (decodeRequest_moves type tag p) host)
  | none =>
    cases c with
    | pinReset hrate frate => cases h; exact .one (.pinReset hrate frate)
    | resetnLow => cases h; exact .one .resetnLow
    | hostFrameCrcFail bytes => cases h; exact whenRunning_moves (hostBytes_moves _ host)
    | hostGapTimeout =>
      cases h
      refine whenRunning_moves ?_
      split
      · exact .one (.hostFramer .hunt fun _ => trivial)
      · exact .refl
    | hostFramingFault => cases h; exact whenRunning_moves (.one (.hostFramer .hunt fun _ => trivial))
    | replySent => cases h; exact whenRunning_moves (.one .departs)
    | fixBatch tag fixes =>
      cases h
      refine whenRunning_moves (feedFrameArrives_moves (fun u => ?_) feed)
      split
      · exact receiveFixes_moves fixes u
      · exact discardFeedFrame_moves u
    | feedFrameDiscard type tag p => cases h; exact whenRunning_moves (feedFrameArrives_moves (feedFrame_moves type p) feed)
    | feedFrameCrcFail bytes => cases h; exact whenRunning_moves (feedBytes_moves _ feed)
    | feedGapTimeout =>
      cases h
      refine whenRunning_moves ?_
      split
      · exact .one (.feedFramer .hunt fun _ => trivial)
      · exact .refl
    | feedFramingFault => cases h; exact whenRunning_moves (.one (.feedFramer .hunt fun _ => trivial))
    | arbiterGrant => cases h; exact whenRunning_moves (arbitrate_moves s)
    | fixCompletion => cases h; exact whenRunning_moves (completeFix_moves s)
    | queryCompletion => cases h; exact whenRunning_moves (completeQuery_moves s)
    | quietExpiry i =>
      cases h
      refine whenRunning_moves ?_
      split
      · rename_i due
        exact .one (.quiet i (by simp [quietDue] at due; exact due.1))
      · exact .refl
    | retireExpiry i =>
      cases h
      refine whenRunning_moves ?_
      split
      · rename_i due
        exact .one (.retire i .quiet (by simp) (.inr (by simp [retireDue] at due; exact due.1)))
      · exact .refl
    | redeliveryExpiry seq =>
      cases h
      refine whenRunning_moves ?_
      split
      · rename_i found
        exact .one (.redeliver _ (List.mem_of_find?_eq_some found))
      · exact .refl
    | hostFrameStart => cases h; exact whenRunning_moves (hostBytes_moves _ host)
    | hostBadLen len => cases h; exact whenRunning_moves (hostBytes_moves _ host)
    | feedFrameStart => cases h; exact whenRunning_moves (feedBytes_moves _ feed)
    | feedBadLen len => cases h; exact whenRunning_moves (feedBytes_moves _ feed)
    | _ => simp [hostFrameOf] at frame

theorem expireSlot_moves (s : State) (i : SlotNo) : Moves ok s (expireSlot s i) := by
  unfold expireSlot
  dsimp only
  split
  · rename_i h
    exact .one (.quiet i (by simp at h; exact h.1))
  split
  · rename_i h
    exact .one (.retire i .quiet (by simp) (.inr (by simp at h; exact h.1)))
  · exact .refl

theorem expireGaps_moves (s : State) : Moves ok s (expireGaps s) := by
  have host (s : State) : Moves ok s (if s.hlc.framer.gapOverdue then abandonHostFrame s else s) := by
    split
    · exact .one (.hostFramer .hunt fun _ => trivial)
    · exact .refl
  have feed (s : State) : Moves ok s (if s.flr.framer.gapOverdue then abandonFeedFrame s else s) := by
    split
    · exact .one (.feedFramer .hunt fun _ => trivial)
    · exact .refl
  exact (host s).trans (feed _)

theorem expireOverdue_moves (s : State) : Moves ok s (expireOverdue s) := by
  unfold expireOverdue
  exact ((foldl_moves expireSlot_moves _ _).tail .expireHeld).trans (expireGaps_moves _)

/-- The walk goes on by a move, and the index of free values moves on, which is none (R80). -/
theorem walkOn_moves (s : State) : ∃ u n, Moves ok s u ∧ walkOn s = u.withPaceIndex n := by
  cases busy : s.ev.context with
  | none => exact ⟨s, s.paceIndex, .refl, by simp [walkOn, busy]⟩
  | some c => exact ⟨_, s.paceIndex + 1, .one (.walk (Config.walkPace s.paceIndex) c busy), by simp only [walkOn, busy]⟩

/-- A millisecond is its counting, a sequence of moves, and the pace index moving on (R1). -/
theorem millisecond_moves (s : State) : ∃ u n, Moves ok (countMillisecond s) u ∧ millisecond s = u.withPaceIndex n := by
  obtain ⟨u, n, moves, h⟩ := walkOn_moves (ok := ok) (expireOverdue (countMillisecond s))
  exact ⟨u, n, (expireOverdue_moves _).trans moves, h⟩

/-- What a running part does with no command waiting: moves, or a millisecond (log entries 1 and 11). -/
theorem runOn_cases (s : State) : Moves ok s (runOn s) ∨ runOn s = millisecond s := by
  unfold runOn
  split
  · split
    · exact .inl (arbitrate_moves s)
    · exact .inr rfl
  · split
    · exact .inr rfl
    · split
      · exact .inl (completeQuery_moves s)
      · exact .inl (completeFix_moves s)

/-- A step is a sequence of moves from the state without the command it takes, or a millisecond. -/
theorem step_cases {s t : State} (host : ok → s.hlc.framer.sound) (feed : ok → s.flr.framer.sound) (h : step s = .next t) :
    (∃ rest, Moves ok (s.withPending rest) t) ∨ t = millisecond s := by
  unfold step at h
  split at h
  · cases h
    unfold idle whenRunning
    split
    · exact (runOn_cases s).imp_left fun m => ⟨s.pending, m⟩
    · exact .inl ⟨s.pending, .refl⟩
  · rename_i c rest _
    exact .inl ⟨rest, exec_moves c (s := s.withPending rest) host feed h⟩

/-- What every step keeps: a property that the moves keep, that does not see the model's own fields, and that a millisecond keeps. -/
theorem step_keeps {P : State → Prop} {s t : State} (host : ok → s.hlc.framer.sound) (feed : ok → s.flr.framer.sound)
    (move : ∀ s t, P s → Move ok s t → P t) (pending : ∀ rest, P s → P (s.withPending rest)) (tick : P s → P (millisecond s))
    (hs : P s) (h : step s = .next t) : P t := by
  rcases step_cases host feed h with ⟨rest, moves⟩ | passed
  · exact moves.keeps move (pending rest hs)
  · rw [passed]
    exact tick hs

end Sys2Proof.Machine
end

section
/-! SUPPORT. The Event Queue: where a returning or joining event takes its place, and the number it takes (R114 to R116). -/

namespace Sys2Proof.Machine

set_option Elab.async false

/-! ### The order of the pending list (R116) -/

theorem Event.before_iff (e x : Event) :
    e.before x = true ↔ x.priority.toNat < e.priority.toNat ∨ x.priority.toNat = e.priority.toNat ∧ e.arrival < x.arrival := by
  simp [Event.before, ← BitVec.toNat_inj]

/-- Of two events of different arrivals one stands before the other. -/
theorem Event.before_of_not {e x : Event} (arrivals : e.arrival ≠ x.arrival) (h : e.before x = false) : x.before e = true := by
  rw [← Bool.not_eq_true, Event.before_iff] at h
  rw [Event.before_iff]
  omega

theorem Event.before_trans {e x y : Event} (h : e.before x = true) (k : x.before y = true) : e.before y = true := by
  rw [Event.before_iff] at *
  omega

/-- An event placed in a list in order stands behind all that stand before it and before all the others. -/
theorem insertEvent_placed {e : Event} {list : List Event} (order : list.Pairwise fun a b => a.before b = true)
    (arrival : ∀ x ∈ list, e.arrival ≠ x.arrival) :
    ∃ front back, list = front ++ back ∧ insertEvent e list = front ++ e :: back ∧
      (∀ x ∈ front, x.before e = true) ∧ ∀ x ∈ back, e.before x = true := by
  obtain ⟨front, back, split, placed, after, first⟩ := insertEvent_split e list
  refine ⟨front, back, split, placed, fun x hx => ?_, fun x hx => ?_⟩
  · exact Event.before_of_not (arrival x (by simp [split, hx])) (after x hx)
  · cases back with
    | nil => simp at hx
    | cons y ys =>
      have head : e.before y = true := first y rfl
      rcases List.mem_cons.1 hx with rfl | hx
      · exact head
      · rw [split] at order
        exact Event.before_trans head (List.rel_of_pairwise_cons (List.pairwise_append.1 order).2.1 hx)

theorem insertEvent_order {e : Event} {list : List Event} (order : list.Pairwise fun a b => a.before b = true)
    (arrival : ∀ x ∈ list, e.arrival ≠ x.arrival) : (insertEvent e list).Pairwise fun a b => a.before b = true := by
  obtain ⟨front, back, rfl, placed, before, after⟩ := insertEvent_placed order arrival
  obtain ⟨front_order, back_order, across⟩ := List.pairwise_append.1 order
  rw [placed, List.pairwise_append]
  refine ⟨front_order, List.pairwise_cons.2 ⟨after, back_order⟩, fun x hx y hy => ?_⟩
  rcases List.mem_cons.1 hy with rfl | hy
  · exact before x hx
  · exact across x hx y hy

/-! ### The number of a new event (R114) -/

theorem carries_iff (q : EventQueue) (v : BitVec 16) : q.carries v = true ↔ ∃ e ∈ q.queued, e.seq = v := by
  simp [EventQueue.carries, EventQueue.queued, or_and_right, exists_or]

theorem queued_length (q : EventQueue) : q.queued.length = q.waiting.length + q.held.length := by
  simp [EventQueue.queued]

/-- The search passes carried numbers alone, and stops at the first that none carries unless it has made all its steps. -/
theorem stepSeq_passes (q : EventQueue) (n : Nat) (v : BitVec 16) :
    ∃ k ≤ n, q.stepSeq n v = v + BitVec.ofNat 16 k ∧ (∀ j < k, q.carries (v + BitVec.ofNat 16 j) = true) ∧
      (k < n → q.carries (v + BitVec.ofNat 16 k) = false) := by
  induction n generalizing v with
  | zero => exact ⟨0, le_rfl, by simp [EventQueue.stepSeq], by simp, by simp⟩
  | succ n ih =>
    unfold EventQueue.stepSeq
    split
    · rename_i carried
      obtain ⟨k, atMost, found, passed, stopped⟩ := ih (v + 1)
      have shift (j : Nat) : v + 1 + BitVec.ofNat 16 j = v + BitVec.ofNat 16 (j + 1) := by
        exact BitVec.eq_of_toNat_eq (by simp [BitVec.toNat_add]; omega)
      simp only [shift] at found passed stopped
      refine ⟨k + 1, by omega, found, fun j below => ?_, fun below => stopped (by omega)⟩
      cases j with
      | zero => simpa using carried
      | succ j => exact passed j (by omega)
    · rename_i free
      exact ⟨0, by omega, by simp, by simp, fun _ => by simpa using free⟩

/-- A run of carried numbers is no longer than the queue: so the search meets a number that no queued event carries. -/
theorem freshSeq_passes {q : EventQueue} (size : q.waiting.length + q.held.length < 65536) :
    ∃ k, q.freshSeq = q.nextSeq + BitVec.ofNat 16 k ∧ (∀ j < k, q.carries (q.nextSeq + BitVec.ofNat 16 j) = true) ∧
      q.carries q.freshSeq = false := by
  obtain ⟨k, atMost, found, passed, stopped⟩ := stepSeq_passes q (q.waiting.length + q.held.length + 1) q.nextSeq
  refine ⟨k, found, passed, ?_⟩
  have short : k < q.waiting.length + q.held.length + 1 := by
    by_contra long
    have all : Finset.image (fun j => q.nextSeq + BitVec.ofNat 16 j) (Finset.range k) ⊆ (q.queued.map (·.seq)).toFinset := by
      intro v hv
      obtain ⟨j, below, rfl⟩ := Finset.mem_image.1 hv
      simpa using (carries_iff q _).1 (passed j (Finset.mem_range.1 below))
    have distinct : Set.InjOn (fun j => q.nextSeq + BitVec.ofNat 16 j) (Finset.range k) := by
      intro a ha b hb hab
      simp only [Finset.coe_range, Set.mem_Iio] at ha hb
      have same := congrArg BitVec.toNat (add_left_cancel (a := q.nextSeq) hab)
      simp only [BitVec.toNat_ofNat] at same
      omega
    have count := Finset.card_le_card all
    rw [Finset.card_image_of_injOn distinct, Finset.card_range] at count
    have bound := (q.queued.map (·.seq)).toFinset_card_le
    rw [List.length_map, queued_length] at bound
    omega
  show q.carries (q.stepSeq _ _) = false
  rw [found]
  exact stopped short

theorem join_waiting (q : EventQueue) (k : EventKind) (p : BitVec 3) :
    (q.join k p).waiting = insertEvent ⟨q.freshSeq, k, p, q.nextArrival, false⟩ q.waiting := rfl

/-- A join adds its event to the queue (R114 to R116). -/
theorem join_queued (q : EventQueue) (k : EventKind) (p : BitVec 3) :
    (q.join k p).queued.Perm (⟨q.freshSeq, k, p, q.nextArrival, false⟩ :: q.queued) :=
  (insertEvent_perm _ q.waiting).append_right _

/-! ### Groups that join -/

@[simp] theorem joined_nil (q : EventQueue) : joined q [] = q := rfl

@[simp] theorem joined_cons (q : EventQueue) (e : EventKind × BitVec 3) (es : List (EventKind × BitVec 3)) :
    joined q (e :: es) = joined (q.join e.1 e.2) es := rfl

@[simp] theorem joined_held (q : EventQueue) (es : List (EventKind × BitVec 3)) : (joined q es).held = q.held := by
  induction es generalizing q with
  | nil => rfl
  | cons e es ih => rw [joined_cons, ih, join_held]

@[simp] theorem joined_waiting_length (q : EventQueue) (es : List (EventKind × BitVec 3)) :
    (joined q es).waiting.length = q.waiting.length + es.length := by
  induction es generalizing q with
  | nil => rfl
  | cons e es ih =>
    rw [joined_cons, ih, join_waiting_length, List.length_cons]
    omega

theorem joined_free (q : EventQueue) (es : List (EventKind × BitVec 3)) : (joined q es).free = q.free - es.length := by
  simp only [EventQueue.free, joined_waiting_length, joined_held]
  omega

/-- What stood in the queue before a group joined stands there after it. -/
theorem mem_joined_waiting {q : EventQueue} {e : Event} (es : List (EventKind × BitVec 3)) (h : e ∈ q.waiting) :
    e ∈ (joined q es).waiting := by
  induction es generalizing q with
  | nil => exact h
  | cons x es ih => exact ih ((mem_insertEvent _ _ _).2 (.inr h))

/-- Every event of a group that joined stands on the pending list, not redelivered (R94). -/
theorem joined_pending (q : EventQueue) {es : List (EventKind × BitVec 3)} {x : EventKind × BitVec 3} (h : x ∈ es) :
    ∃ e ∈ (joined q es).waiting, e.kind = x.1 ∧ e.priority = x.2 ∧ e.redelivered = false := by
  induction es generalizing q with
  | nil => simp at h
  | cons y es ih =>
    rcases List.mem_cons.1 h with rfl | h
    · exact ⟨⟨q.freshSeq, x.1, x.2, q.nextArrival, false⟩, mem_joined_waiting es ((mem_insertEvent _ _ _).2 (.inl rfl)), rfl, rfl, rfl⟩
    · exact ih _ h

theorem mem_joined_queued {q : EventQueue} {es : List (EventKind × BitVec 3)} {e : Event} (h : e ∈ (joined q es).queued) :
    e ∈ q.queued ∨ ∃ x ∈ es, e.kind = x.1 := by
  induction es generalizing q with
  | nil => exact .inl h
  | cons y es ih =>
    rcases ih h with old | ⟨x, hx, kind⟩
    · rcases List.mem_cons.1 ((join_queued q y.1 y.2).mem_iff.1 old) with rfl | old
      · exact .inr ⟨y, by simp, rfl⟩
      · exact .inl old
    · exact .inr ⟨x, by simp [hx], kind⟩

end Sys2Proof.Machine
end

section
/-! SUPPORT. The Reporter in closed form: what a queued group, a round of the reconciler and a fresh group leave (R92 to R105). -/

namespace Sys2Proof.Machine

set_option Elab.async false

/-! ### Tables -/

@[simp] theorem Table.set_set {α : Type} {n : Nat} (t : Table α n) (i : Fin n) (u v : α) : (t.set i u).set i v = t.set i v := by
  apply Table.ext_get
  intro j
  simp only [Table.get_set]
  split <;> rfl

theorem Table.modify_eq_set {α : Type} {n : Nat} (t : Table α n) (i : Fin n) (f : α → α) : t.modify i f = t.set i (f (t.get i)) := rfl

/-! ### The told record (R95) -/

@[simp] theorem noticeKind_told (g : BitVec 16) (sl : Slot) (n m : Notice) : noticeKind g (sl.told n) m = noticeKind g sl m := by
  cases n <;> rfl

/-- The told record after a whole group. -/
def Slot.toldAll (sl : Slot) (group : List Notice) : Slot :=
  group.foldl Slot.told sl

@[simp] theorem toldAll_nil (sl : Slot) : sl.toldAll [] = sl := rfl

@[simp] theorem toldAll_cons (sl : Slot) (n : Notice) (group : List Notice) : sl.toldAll (n :: group) = (sl.told n).toldAll group := rfl

@[simp] theorem toldAll_append (sl : Slot) (as bs : List Notice) : sl.toldAll (as ++ bs) = (sl.toldAll as).toldAll bs :=
  List.foldl_append

/-- Exits of some zones take them from the told set. -/
theorem toldAll_exits (sl : Slot) (zones : ZoneSet) (c : Cause) :
    sl.toldAll (exits zones c) = { sl with toldSet := sl.toldSet &&& ~~~zones } := by
  have list (zs : List ZoneId) (sl : Slot) : ∃ told, sl.toldAll (zs.map fun z => .exit z c) = { sl with toldSet := told } ∧
      ∀ z, inSet told z = (inSet sl.toldSet z && !decide (z ∈ zs)) := by
    induction zs generalizing sl with
    | nil => exact ⟨sl.toldSet, rfl, by simp⟩
    | cons y zs ih =>
      obtain ⟨told, after, zones⟩ := ih (sl.told (.exit y c))
      refine ⟨told, after, fun z => ?_⟩
      rw [zones]
      simp only [Slot.told, inSet_minus, inSet_twoPow, List.mem_cons]
      by_cases h : z = y
      · simp [h]
      · simp [h, Ne.symm h]
  obtain ⟨told, after, zs⟩ := list (zonesOf zones) sl
  rw [exits, after]
  congr 1
  exact zoneSet_ext fun z => by simp only [zs, inSet_minus, mem_zonesOf, Bool.decide_eq_true]

/-- Entries of some zones put them in the told set. -/
theorem toldAll_enters (sl : Slot) (zones : ZoneSet) (c : Cause) :
    sl.toldAll (enters zones c) = { sl with toldSet := sl.toldSet ||| zones } := by
  have list (zs : List ZoneId) (sl : Slot) : ∃ told, sl.toldAll (zs.map fun z => .enter z c) = { sl with toldSet := told } ∧
      ∀ z, inSet told z = (inSet sl.toldSet z || decide (z ∈ zs)) := by
    induction zs generalizing sl with
    | nil => exact ⟨sl.toldSet, rfl, by simp⟩
    | cons y zs ih =>
      obtain ⟨told, after, zones⟩ := ih (sl.told (.enter y c))
      refine ⟨told, after, fun z => ?_⟩
      rw [zones]
      simp only [Slot.told, inSet_union, inSet_twoPow, List.mem_cons]
      by_cases h : z = y
      · simp [h]
      · simp [h, Ne.symm h]
  obtain ⟨told, after, zs⟩ := list (zonesOf zones) sl
  rw [enters, after]
  congr 1
  exact zoneSet_ext fun z => by simp only [zs, inSet_union, mem_zonesOf, Bool.decide_eq_true]

/-- No group of exits or entries alone lets the object go (R92). -/
@[simp] theorem retired_notMem_exits (zones : ZoneSet) (c : Cause) (r : RetireCause) : Notice.retired r ∉ exits zones c := by
  simp [exits]

@[simp] theorem retired_notMem_enters (zones : ZoneSet) (c : Cause) (r : RetireCause) : Notice.retired r ∉ enters zones c := by
  simp [enters]

/-! ### A group that is queued (R94 to R96) -/

/-- A notice of slot `sl` as the event it becomes, with its priority (R93, R107, R108). -/
def noticeEvent (s : State) (sl : Slot) (n : Notice) : EventKind × BitVec 3 :=
  (noticeKind s.zs.generation sl n, noticePriority s.zs.active s.params.objEventPrio n)

theorem queueNotice_stays {i : SlotNo} {s : State} {n : Notice} (stays : ∀ c, n ≠ .retired c) :
    queueNotice i s n = (s.withEq (s.eq.join (noticeEvent s (s.slots.get i) n).1 (noticeEvent s (s.slots.get i) n).2)).withSlots
      (s.slots.set i ((s.slots.get i).told n)) := by
  cases n with
  | retired c => exact absurd rfl (stays c)
  | resumed c => rfl
  | exit z c => rfl
  | enter z c => rfl
  | quiet c => rfl

/-- A group with no RETIRED joins in its order, and the told record follows. -/
theorem queueGroup_stays {i : SlotNo} {group : List Notice} {s : State} (stays : ∀ c, Notice.retired c ∉ group) :
    queueGroup i group s = (s.withEq (joined s.eq (group.map (noticeEvent s (s.slots.get i))))).withSlots
      (s.slots.set i ((s.slots.get i).toldAll group)) := by
  induction group generalizing s with
  | nil => simp [queueGroup]
  | cons n group ih =>
    have step := queueNotice_stays (i := i) (s := s) (n := n) fun c h => stays c (by simp [h])
    have later := ih (s := queueNotice i s n) fun c h => stays c (by simp [h])
    have events : group.map (noticeEvent (queueNotice i s n) ((s.slots.get i).told n)) = group.map (noticeEvent s (s.slots.get i)) := by
      refine List.map_congr_left fun m _ => ?_
      rw [step]
      simp [noticeEvent]
    show queueGroup i group (queueNotice i s n) = _
    have slot : (queueNotice i s n).slots.get i = (s.slots.get i).told n := by rw [step]; simp
    rw [later, slot, events, step]
    simp [State.withEq, State.withSlots]

/-- A group that ends in RETIRED joins in its order, and the slot is freed. -/
theorem queueGroup_retires {i : SlotNo} {group : List Notice} {s : State} (c : RetireCause) (stays : ∀ c, Notice.retired c ∉ group) :
    queueGroup i (group ++ [Notice.retired c]) s =
      freeSlot i (s.withEq (joined s.eq ((group ++ [Notice.retired c]).map (noticeEvent s (s.slots.get i))))) := by
  have last (u : State) : queueNotice i u (.retired c) =
      freeSlot i (u.withEq (u.eq.join (noticeEvent u (u.slots.get i) (.retired c)).1 (noticeEvent u (u.slots.get i) (.retired c)).2)) := rfl
  have told (sl : Slot) (l : List Notice) (m : Notice) (g : BitVec 16) : noticeKind g (sl.toldAll l) m = noticeKind g sl m := by
    induction l generalizing sl with
    | nil => rfl
    | cons n l ih => rw [toldAll_cons, ih, noticeKind_told]
  have all : queueGroup i (group ++ [Notice.retired c]) s = queueNotice i (queueGroup i group s) (.retired c) := by simp [queueGroup]
  rw [all, last, queueGroup_stays stays]
  simp [freeSlot, State.withEq, State.withSlots, State.withDirty, noticeEvent, told, joined]

/-! ### A round of the reconciler (R101, R104, R105) -/

/-- The catch-up group without the RETIRED of a RETIRING object. -/
def catchUpStay (sl : Slot) : List Notice :=
  (if sl.phase = .tracked ∧ sl.toldQuiet then [.resumed .catchup] else []) ++
  exits (sl.toldSet &&& ~~~sl.inside) .catchup ++
  enters (sl.inside &&& ~~~sl.toldSet) .catchup ++
  (if sl.phase = .quiet ∧ sl.toldQuiet = false then [.quiet .catchup] else [])

theorem catchUpGroup_stays {sl : Slot} (h : sl.phase ≠ .retiring) : catchUpGroup sl = catchUpStay sl := by
  simp [catchUpGroup, catchUpStay, h]

theorem catchUpGroup_retires {sl : Slot} (h : sl.phase = .retiring) : catchUpGroup sl = catchUpStay sl ++ [Notice.retired sl.cause] := by
  simp [catchUpGroup, catchUpStay, h]

theorem retired_notMem_catchUpStay (sl : Slot) (c : RetireCause) : Notice.retired c ∉ catchUpStay sl := by
  simp [catchUpStay]

/-- A slot whose catch-up group has been queued: freed if it was RETIRING, else clean and told the truth (R96, R105). -/
def Slot.caughtUp (sl : Slot) : Slot :=
  match sl.phase with
  | .retiring => Slot.empty
  | .tracked => { sl with toldSet := sl.inside, toldQuiet := false, dirty := false }
  | .quiet => { sl with toldSet := sl.inside, toldQuiet := true, dirty := false }
  | .free => { sl with toldSet := sl.inside, dirty := false }

/-- The told set, less the zones left, with the zones entered, is the inside set. -/
theorem toldSet_caughtUp (told inside : ZoneSet) : (told &&& ~~~(told &&& ~~~inside)) ||| (inside &&& ~~~told) = inside := by
  refine zoneSet_ext fun z => ?_
  simp only [inSet_union, inSet_minus]
  cases inSet told z <;> cases inSet inside z <;> rfl

theorem toldAll_catchUpStay {sl : Slot} (h : sl.phase ≠ .retiring) :
    { sl.toldAll (catchUpStay sl) with dirty := false } = sl.caughtUp := by
  simp only [catchUpStay, toldAll_append, toldAll_exits, toldAll_enters]
  obtain ⟨phase, id, cls, lastFix, inside, run, told, toldQuiet, stale, dirty, cause, quietTimer, retireTimer⟩ := sl
  have set := toldSet_caughtUp told inside
  cases phase with
  | retiring => exact absurd rfl h
  | free => simp [Slot.caughtUp, set]
  | tracked => cases toldQuiet <;> simp [Slot.caughtUp, Slot.told, set]
  | quiet => cases toldQuiet <;> simp [Slot.caughtUp, Slot.told, set]

/-- The state after a round of the reconciler on slot `i`. -/
def caughtUpState (i : SlotNo) (s : State) : State :=
  ((s.withEq (joined s.eq ((catchUpGroup (s.slots.get i)).map (noticeEvent s (s.slots.get i))))).withSlots
    (s.slots.set i (s.slots.get i).caughtUp)).withDirty (s.dirty.filter (· != i))

theorem clearDirty_queueGroup (i : SlotNo) (s : State) :
    clearDirty i (queueGroup i (catchUpGroup (s.slots.get i)) s) = caughtUpState i s := by
  by_cases h : (s.slots.get i).phase = .retiring
  · have freed : (s.slots.get i).caughtUp = Slot.empty := by simp [Slot.caughtUp, h]
    have clean : { Slot.empty with dirty := false } = Slot.empty := rfl
    rw [caughtUpState, freed, catchUpGroup_retires h, queueGroup_retires _ (retired_notMem_catchUpStay _)]
    simp [clearDirty, freeSlot, State.withEq, State.withSlots, State.withDirty, Table.modify_eq_set, clean]
  · rw [caughtUpState, catchUpGroup_stays h, queueGroup_stays (retired_notMem_catchUpStay _), ← toldAll_catchUpStay h]
    simp [clearDirty, State.withEq, State.withSlots, State.withDirty, Table.modify_eq_set]

/-- The reconciler does not act while the head's group and the reserve do not fit (R104). -/
theorem reconcile_waits {s : State} {i : SlotNo} {rest : List SlotNo} (dirty : s.dirty = i :: rest)
    (full : s.eq.free < (catchUpGroup (s.slots.get i)).length + 8) : reconcile s = s := by
  have short : ¬ (catchUpGroup (s.slots.get i)).length + reserve ≤ s.eq.free := by
    simp only [reserve]
    omega
  simp [reconcile, reconcileRounds, dirty, short]

theorem reconcile_clean {s : State} (clean : s.dirty = []) : reconcile s = s := by
  simp [reconcile, reconcileRounds, clean]

/-- While the head's group and the reserve fit, a round is taken and the reconciler goes on (R104, R105). -/
theorem reconcile_acts {s : State} {i : SlotNo} {rest : List SlotNo} (dirty : s.dirty = i :: rest) (nodup : s.dirty.Nodup)
    (fits : (catchUpGroup (s.slots.get i)).length + 8 ≤ s.eq.free) : reconcile s = reconcile (caughtUpState i s) := by
  have left : (caughtUpState i s).dirty = rest := by
    have other : i ∉ rest := by rw [dirty] at nodup; exact (List.nodup_cons.1 nodup).1
    show s.dirty.filter (· != i) = rest
    rw [dirty]
    simp only [bne_self_eq_false, Bool.false_eq_true, not_false_eq_true, List.filter_cons_of_neg]
    exact List.filter_eq_self.2 fun j hj => by simpa using fun h : j = i => other (h ▸ hj)
  have long : (catchUpGroup (s.slots.get i)).length + reserve ≤ s.eq.free := by simpa only [reserve] using fits
  simp only [reconcile, left, dirty, List.length_cons, reconcileRounds]
  rw [if_pos long, clearDirty_queueGroup]

/-- What every round of the reconciler keeps, the reconciler keeps. -/
theorem reconcile_keeps {P : State → Prop}
    (round : ∀ s i, P s → i ∈ s.dirty → (catchUpGroup (s.slots.get i)).length + 8 ≤ s.eq.free → P (caughtUpState i s)) {s : State}
    (hs : P s) : P (reconcile s) := by
  have rounds (n : Nat) (s : State) (hs : P s) : P (reconcileRounds n s) := by
    induction n generalizing s with
    | zero => exact hs
    | succ n ih =>
      unfold reconcileRounds
      split
      · exact hs
      · rename_i i rest dirty
        dsimp only
        split
        · rename_i fits
          rw [clearDirty_queueGroup]
          exact ih _ (round s i hs (by simp [dirty]) (by simpa only [reserve] using fits))
        · exact hs
  exact rounds _ s hs

/-! ### A fresh group (R94, R97) -/

/-- The slot becomes dirty and joins the tail of the dirty list, before the reconciler acts. -/
def markedDirty (i : SlotNo) (s : State) : State :=
  (s.withSlots (s.slots.set i { s.slots.get i with dirty := true })).withDirty (s.dirty ++ [i])

theorem markDirty_cases (i : SlotNo) (s : State) : markDirty i s = markedDirty i s ∨ markDirty i s = reconcile (markedDirty i s) := by
  unfold markDirty
  dsimp only
  split
  · exact .inr rfl
  · exact .inl rfl

@[simp] theorem catchUpGroup_dirty (sl : Slot) (d : Bool) : catchUpGroup { sl with dirty := d } = catchUpGroup sl := rfl

/-- An object refused a group as long as its catch-up group waits: the reconciler does not serve it at once (R97, R103, R104). -/
theorem markDirty_refused {i : SlotNo} {s : State} (full : s.eq.free < (catchUpGroup (s.slots.get i)).length) :
    markDirty i s = markedDirty i s := by
  unfold markDirty
  dsimp only
  split
  · rename_i clean
    have clean : s.dirty = [] := by simpa using clean
    refine reconcile_waits (i := i) (rest := []) (by simp [clean]) ?_
    simp [Table.modify_eq_set]
    omega
  · rfl

/-- A fresh group that tells the object's whole debt is queued whole, or refused with the object dirty, and nothing else moves. -/
theorem freshGroup_owed {i : SlotNo} {group : List Notice} {s : State} (owed : group.length ≤ (catchUpGroup (s.slots.get i)).length) :
    freshGroup i group s =
      if group = [] ∨ (s.slots.get i).dirty = true then s
      else if group.length ≤ s.eq.free then queueGroup i group s
      else markedDirty i s := by
  rcases freshGroup_cases i group s with ⟨empty, e⟩ | ⟨some, clean, fits, e⟩ | ⟨some, dirty, e⟩ | ⟨some, clean, full, e⟩ <;> rw [e]
  · simp [empty]
  · simp [some, clean, fits]
  · simp [dirty]
  · rw [markDirty_refused (by omega)]
    simp [some, clean, Nat.not_le.2 full]

end Sys2Proof.Machine
end

section
/-! SUPPORT. The Event Queue keeps its bounds, numbers, order and timers in every step (R111, R114 to R117, R120, R123, R125). -/

namespace Sys2Proof.Machine

set_option Elab.async false

/-! ### The queued events -/

/-- What holds of the pending list and the held list by themselves, with every timer at most `slack` ms past its length, and the next arrival
at `next`. -/
structure EventsCore (slack : Nat) (waiting : List Event) (held : List Held) (next : Nat) : Prop where
  size : waiting.length + held.length ≤ 96
  heldSize : held.length ≤ 8
  seqs : ((waiting ++ held.map (·.event)).map (·.seq)).Nodup
  arrivals : ((waiting ++ held.map (·.event)).map (·.arrival)).Nodup
  older : ∀ e ∈ waiting ++ held.map (·.event), e.arrival < next
  order : waiting.Pairwise fun e x => e.before x = true
  timers : ∀ h ∈ held, ∃ length elapsed, h.timer = .running length elapsed ∧ elapsed ≤ length + slack
  reports : ∀ e ∈ waiting ++ held.map (·.event), e.kind.system? ≠ none → e.kind.reports ≠ 0
  single : ∀ k, (waiting.filter (Event.isSystem k)).length ≤ 1

section Core

variable {slack : Nat} {waiting waiting' : List Event} {held held' : List Held} {next : Nat}

theorem EventsCore.sublist (h : EventsCore slack waiting held next) (w : waiting'.Sublist waiting) (hs : held'.Sublist held) :
    EventsCore slack waiting' held' next := by
  have all : (waiting' ++ held'.map (·.event)).Sublist (waiting ++ held.map (·.event)) := w.append (hs.map _)
  refine ⟨?_, hs.length_le.trans h.heldSize, h.seqs.sublist (all.map _), h.arrivals.sublist (all.map _), fun e he => h.older e (all.subset he),
    h.order.sublist w, fun x hx => h.timers x (hs.subset hx), fun e he => h.reports e (all.subset he), fun k => ?_⟩
  · have := h.size
    have := w.length_le
    have := hs.length_le
    omega
  · exact (w.filter _).length_le.trans (h.single k)

/-- An event of a new number and arrival takes its place on the pending list. -/
theorem EventsCore.insert (h : EventsCore slack waiting held next) {e : Event} {next' : Nat} (room : waiting.length + held.length < 96)
    (seq : ∀ x ∈ waiting ++ held.map (·.event), x.seq ≠ e.seq) (arrival : ∀ x ∈ waiting ++ held.map (·.event), x.arrival ≠ e.arrival)
    (later : next ≤ next') (before : e.arrival < next') (reports : e.kind.system? ≠ none → e.kind.reports ≠ 0)
    (alone : ∀ k, e.isSystem k = true → waiting.any (Event.isSystem k) = false) : EventsCore slack (insertEvent e waiting) held next' := by
  have all : (insertEvent e waiting ++ held.map (·.event)).Perm (e :: (waiting ++ held.map (·.event))) :=
    (insertEvent_perm e waiting).append_right _
  refine ⟨?_, h.heldSize, ?_, ?_, fun x hx => ?_, insertEvent_order h.order fun x hx => (arrival x (by simp [hx])).symm, h.timers,
    fun x hx => ?_, fun k => ?_⟩
  · rw [insertEvent_length]
    omega
  · rw [(all.map _).nodup_iff, List.map_cons, List.nodup_cons]
    exact ⟨fun mem => let ⟨x, hx, same⟩ := List.mem_map.1 mem; seq x hx same, h.seqs⟩
  · rw [(all.map _).nodup_iff, List.map_cons, List.nodup_cons]
    exact ⟨fun mem => let ⟨x, hx, same⟩ := List.mem_map.1 mem; arrival x hx same, h.arrivals⟩
  · rcases List.mem_cons.1 (all.mem_iff.1 hx) with rfl | hx
    · exact before
    · exact (h.older x hx).trans_le later
  · rcases List.mem_cons.1 (all.mem_iff.1 hx) with rfl | hx
    · exact reports
    · exact h.reports x hx
  · rw [((insertEvent_perm e waiting).filter _).length_eq]
    cases isk : e.isSystem k with
    | true =>
      have none_pending : waiting.filter (Event.isSystem k) = [] := by simpa using alone k isk
      simp [isk, none_pending]
    | false => simpa [isk] using h.single k

/-- A pending event becomes a held one with a fresh timer (R118). -/
theorem EventsCore.hold {e : Event} (h : EventsCore slack (e :: waiting) held next) (room : held.length < 8) (length : Nat) :
    EventsCore slack waiting (held ++ [⟨e, .running length 0⟩]) next := by
  have all : (waiting ++ (held ++ [(⟨e, .running length 0⟩ : Held)]).map (·.event)).Perm (e :: waiting ++ held.map (·.event)) := by
    rw [List.map_append, ← List.append_assoc]
    exact List.perm_append_comm
  refine ⟨?_, ?_, (all.map _).nodup_iff.2 h.seqs, (all.map _).nodup_iff.2 h.arrivals, fun x hx => h.older x (all.mem_iff.1 hx),
    (List.pairwise_cons.1 h.order).2, fun x hx => ?_, fun x hx => h.reports x (all.mem_iff.1 hx), fun k => ?_⟩
  · have := h.size
    simp only [List.length_cons, List.length_append, List.length_nil] at *
    omega
  · simp only [List.length_append, List.length_cons, List.length_nil]
    omega
  · rcases List.mem_append.1 hx with hx | hx
    · exact h.timers x hx
    · rw [List.mem_singleton.1 hx]
      exact ⟨length, 0, rfl, by omega⟩
  · exact ((List.sublist_cons_self e waiting).filter _).length_le.trans (h.single k)

/-- Pending events whose counts rise stay where they are (R123, R125). -/
theorem EventsCore.map (h : EventsCore slack waiting held next) {f : Event → Event}
    (same : ∀ e, (f e).seq = e.seq ∧ (f e).arrival = e.arrival ∧ (f e).priority = e.priority ∧ (f e).kind.system? = e.kind.system?)
    (reports : ∀ e, e.kind.reports ≠ 0 → (f e).kind.reports ≠ 0) : EventsCore slack (waiting.map f) held next := by
  have onList {α : Type} (g : Event → α) (hg : ∀ e, g (f e) = g e) :
      (waiting.map f ++ held.map (·.event)).map g = (waiting ++ held.map (·.event)).map g := by
    simp [hg]
  have fromOld {x : Event} (hx : x ∈ waiting.map f ++ held.map (·.event)) :
      ∃ y ∈ waiting ++ held.map (·.event), x = y ∨ x = f y := by
    rcases List.mem_append.1 hx with hx | hx
    · obtain ⟨y, hy, rfl⟩ := List.mem_map.1 hx
      exact ⟨y, by simp [hy], .inr rfl⟩
    · exact ⟨x, List.mem_append_right _ hx, .inl rfl⟩
  refine ⟨by rw [List.length_map]; exact h.size, h.heldSize, ?_, ?_, fun x hx => ?_, ?_, h.timers, fun x hx sys => ?_, fun k => ?_⟩
  · rw [onList _ fun e => (same e).1]
    exact h.seqs
  · rw [onList _ fun e => (same e).2.1]
    exact h.arrivals
  · obtain ⟨y, hy, rfl | rfl⟩ := fromOld hx
    · exact h.older _ hy
    · rw [(same y).2.1]
      exact h.older _ hy
  · rw [List.pairwise_map]
    refine h.order.imp fun {a b} hab => ?_
    rw [Event.before_iff] at *
    simpa only [(same a).2.1, (same b).2.1, (same a).2.2.1, (same b).2.2.1] using hab
  · obtain ⟨y, hy, rfl | rfl⟩ := fromOld hx
    · exact h.reports _ hy sys
    · rw [(same y).2.2.2] at sys
      exact reports y (h.reports y hy sys)
  · have filtered : (waiting.map f).filter (Event.isSystem k) = (waiting.filter (Event.isSystem k)).map f := by
      rw [List.filter_map]
      congr 1
      exact List.filter_congr fun e _ => by simp [Event.isSystem, (same e).2.2.2]
    rw [filtered, List.length_map]
    exact h.single k

end Core

/-! ### The queue with its waiting counts -/

/-- The Event Queue after an entry was freed: a waiting count may still stand beside it (R126). -/
structure QueueFreed (slack : Nat) (q : EventQueue) : Prop where
  core : EventsCore slack q.waiting q.held q.nextArrival
  counted : ∀ k, q.waitingCount k ≠ 0 → q.waiting.any (Event.isSystem k) = false
  firstId : q.admitFirstId.isSome = true ↔ q.admitWaiting ≠ 0

/-- The Event Queue is sound, but for timers up to `slack` ms past their lengths. -/
structure QueueLoose (slack : Nat) (q : EventQueue) : Prop extends QueueFreed slack q where
  full : ∀ k, q.waitingCount k ≠ 0 → q.free = 0

theorem queueSound_iff (q : EventQueue) : QueueSound q ↔ QueueLoose 0 q := by
  constructor
  · rintro ⟨size, heldSize, seqs, arrivals, older, order, timers, reports, single, counts, firstId⟩
    exact ⟨⟨⟨size, heldSize, seqs, arrivals, older, order, timers, reports, single⟩, fun k hk => (counts k hk).1, firstId⟩,
      fun k hk => (counts k hk).2⟩
  · rintro ⟨⟨⟨size, heldSize, seqs, arrivals, older, order, timers, reports, single⟩, counted, firstId⟩, full⟩
    exact ⟨size, heldSize, seqs, arrivals, older, order, timers, reports, single, fun k hk => ⟨counted k hk, full k hk⟩, firstId⟩

section Queue

variable {slack : Nat} {q : EventQueue}

theorem free_pos : 0 < q.free ↔ q.waiting.length + q.held.length < 96 := by
  unfold EventQueue.free
  omega

theorem free_eq_zero : q.free = 0 ↔ 96 ≤ q.waiting.length + q.held.length := by
  unfold EventQueue.free
  omega

/-- An event that joins has a number and an arrival of its own (R114, R115). -/
theorem EventsCore.join (h : EventsCore slack q.waiting q.held q.nextArrival) {kind : EventKind} (p : BitVec 3) (room : 0 < q.free)
    (reports : kind.system? ≠ none → kind.reports ≠ 0) (alone : ∀ k, kind.system? = some k → q.waiting.any (Event.isSystem k) = false) :
    EventsCore slack (q.join kind p).waiting (q.join kind p).held (q.join kind p).nextArrival := by
  have size := free_pos.1 room
  obtain ⟨-, -, -, fresh⟩ := freshSeq_passes (q := q) (by omega)
  refine h.insert size (fun x hx same => ?_) (fun x hx => (h.older x hx).ne) (Nat.le_succ _) (Nat.lt_succ_self _) reports
    fun k hk => alone k (by simpa [Event.isSystem] using hk)
  have carried := (carries_iff q q.freshSeq).2 ⟨x, hx, same⟩
  rw [fresh] at carried
  cases carried

/-- With an entry free no report waits, so any event may join (R123). -/
theorem QueueLoose.join (h : QueueLoose slack q) {kind : EventKind} (p : BitVec 3) (room : 0 < q.free)
    (reports : kind.system? ≠ none → kind.reports ≠ 0) (alone : ∀ k, kind.system? = some k → q.waiting.any (Event.isSystem k) = false) :
    QueueLoose slack (q.join kind p) := by
  have none_waits (k : SystemKind) : (q.join kind p).waitingCount k = 0 := by
    by_contra waits
    have := h.full k (by cases k <;> exact waits)
    omega
  exact ⟨⟨h.core.join p room reports alone, fun k hk => absurd (none_waits k) hk, h.firstId⟩, fun k hk => absurd (none_waits k) hk⟩

/-- A group of ordinary events that fits may join. -/
theorem QueueLoose.joined (h : QueueLoose slack q) {es : List (EventKind × BitVec 3)} (fits : es.length ≤ q.free)
    (ordinary : ∀ e ∈ es, e.1.system? = none) : QueueLoose slack (joined q es) := by
  induction es generalizing q with
  | nil => exact h
  | cons e es ih =>
    rw [List.length_cons] at fits
    have kind : e.1.system? = none := ordinary e (by simp)
    refine ih (h.join e.2 (by omega) (by simp [kind]) (by simp [kind])) ?_ fun x hx => ordinary x (by simp [hx])
    rw [join_free]
    omega

@[simp] theorem noticeKind_ordinary (g : BitVec 16) (sl : Slot) (n : Notice) : (noticeKind g sl n).system? = none := by
  cases n <;> rfl

theorem QueueLoose.group (h : QueueLoose slack q) (s : State) (sl : Slot) {group : List Notice} (fits : group.length ≤ q.free) :
    QueueLoose slack (Machine.joined q (group.map (noticeEvent s sl))) := by
  refine h.joined (by simpa using fits) fun e he => ?_
  obtain ⟨n, -, rfl⟩ := List.mem_map.1 he
  exact noticeKind_ordinary _ _ _

/-! ### The system kinds (R123, R125, R126) -/

theorem satAdd_ne_zero {a b : BitVec 16} (h : a ≠ 0) : satAdd a b ≠ 0 := by
  unfold satAdd
  split
  · bv_omega
  · decide

theorem satInc_ne_zero (a : BitVec 16) : satInc a ≠ 0 := by
  unfold satInc
  split
  · rename_i h
    rw [h]
    decide
  · rename_i h
    intro zero
    apply h
    have : a.toNat < 65536 := a.isLt
    apply BitVec.eq_of_toNat_eq
    have := congrArg BitVec.toNat zero
    simp [BitVec.toNat_add] at this
    simp
    omega

@[simp] theorem addReports_system (n : BitVec 16) (k : EventKind) : (k.addReports n).system? = k.system? := by
  cases k <;> rfl

theorem addReports_reports {n : BitVec 16} {k : EventKind} (h : k.reports ≠ 0) : (k.addReports n).reports ≠ 0 := by
  cases k with
  | admitRefused id c => exact satAdd_ne_zero h
  | feedOverrun c => exact satAdd_ne_zero h
  | _ => exact absurd rfl h

/-- An event of the kind with its count raised by `n` reports; another as it is (R123, R125). -/
def Event.raised (k : SystemKind) (n : BitVec 16) (e : Event) : Event :=
  if e.isSystem k then { e with kind := e.kind.addReports n } else e

theorem raisePending_waiting (q : EventQueue) (k : SystemKind) (n : BitVec 16) :
    (q.raisePending k n).waiting = q.waiting.map (Event.raised k n) := rfl

theorem Event.raised_same (k : SystemKind) (n : BitVec 16) (e : Event) :
    (e.raised k n).seq = e.seq ∧ (e.raised k n).arrival = e.arrival ∧ (e.raised k n).priority = e.priority ∧
    (e.raised k n).kind.system? = e.kind.system? := by
  unfold Event.raised
  split <;> simp

theorem Event.raised_reports {k : SystemKind} {n : BitVec 16} {e : Event} (h : e.kind.reports ≠ 0) : (e.raised k n).kind.reports ≠ 0 := by
  unfold Event.raised
  split
  · exact addReports_reports h
  · exact h

theorem raisePending_system (q : EventQueue) (k k' : SystemKind) (n : BitVec 16) :
    (q.raisePending k n).waiting.any (Event.isSystem k') = q.waiting.any (Event.isSystem k') := by
  rw [raisePending_waiting, List.any_map]
  congr 1
  funext e
  simp only [Function.comp, Event.isSystem, Event.raised_same]

theorem EventsCore.raise (h : EventsCore slack q.waiting q.held q.nextArrival) (k : SystemKind) (n : BitVec 16) :
    EventsCore slack (q.raisePending k n).waiting q.held q.nextArrival :=
  h.map (Event.raised_same k n) fun _ => Event.raised_reports

@[simp] theorem raisePending_count (q : EventQueue) (k k' : SystemKind) (n : BitVec 16) :
    (q.raisePending k n).waitingCount k' = q.waitingCount k' := by
  cases k' <;> rfl

theorem raisePending_free (q : EventQueue) (k : SystemKind) (n : BitVec 16) : (q.raisePending k n).free = q.free := by
  simp [EventQueue.free, EventQueue.raisePending]

theorem QueueFreed.raise (h : QueueFreed slack q) (k : SystemKind) (n : BitVec 16) : QueueFreed slack (q.raisePending k n) :=
  ⟨h.core.raise k n, fun k' hk => by rw [raisePending_system]; exact h.counted k' (by simpa using hk), h.firstId⟩

/-- A report is merged, queued or counted, and the queue stays sound (R123). -/
theorem QueueLoose.report (h : QueueLoose slack q) (k : SystemKind) (id : ObjId) (p : BitVec 3) : QueueLoose slack (q.report k id p) := by
  unfold EventQueue.report
  split
  · exact ⟨h.toQueueFreed.raise k 1, fun k' hk => by rw [raisePending_free]; exact h.full k' (by simpa using hk)⟩
  rename_i none_pending
  have none_pending : q.waiting.any (Event.isSystem k) = false := by simpa using none_pending
  split
  · rename_i room
    cases k with
    | admitRefused => exact h.join p room (fun _ => (by decide : (1 : BitVec 16) ≠ 0)) fun k' hk => by cases hk; exact none_pending
    | feedOverrun => exact h.join p room (fun _ => (by decide : (1 : BitVec 16) ≠ 0)) fun k' hk => by cases hk; exact none_pending
  · rename_i full
    have full : q.free = 0 := by omega
    cases k with
    | admitRefused =>
      refine ⟨⟨h.core, fun k' hk => ?_, fun _ => satInc_ne_zero _, fun _ => rfl⟩, fun _ _ => full⟩
      cases k' with
      | admitRefused => exact none_pending
      | feedOverrun => exact h.counted .feedOverrun hk
    | feedOverrun =>
      refine ⟨⟨h.core, fun k' hk => ?_, h.firstId⟩, fun _ _ => full⟩
      cases k' with
      | admitRefused => exact h.counted .admitRefused hk
      | feedOverrun => exact none_pending

/-- A waiting count that is not 0 takes a free entry, and then is 0; the other count stays (R126). -/
theorem QueueFreed.queueWaiting (h : QueueFreed slack q) (k : SystemKind) (p : BitVec 3) :
    QueueFreed slack (q.queueWaiting k p) ∧ ((q.queueWaiting k p).waitingCount k ≠ 0 → (q.queueWaiting k p).free = 0) ∧
    (∀ k', k' ≠ k → (q.queueWaiting k p).waitingCount k' = q.waitingCount k') ∧ (q.queueWaiting k p).free ≤ q.free := by
  unfold EventQueue.queueWaiting
  split
  · rename_i fits
    obtain ⟨waits, room⟩ := fits
    have alone := h.counted k waits
    have less := join_free q (q.waitingKind k) p
    have core := h.core.join (kind := q.waitingKind k) p room (by cases k <;> exact fun _ => waits)
      (by cases k <;> rintro _ ⟨⟩ <;> exact alone)
    have others {k' : SystemKind} (other : k' ≠ k) (counts : q.waitingCount k' ≠ 0) :
        (q.join (q.waitingKind k) p).waiting.any (Event.isSystem k') = false := by
      rw [join_waiting, ← Bool.not_eq_true, List.any_eq_true]
      rintro ⟨e, he, sys⟩
      rcases (mem_insertEvent _ _ _).1 he with rfl | he
      · cases k <;> cases k' <;> simp_all [Event.isSystem, EventQueue.waitingKind, EventKind.system?]
      · have := h.counted k' counts
        rw [← Bool.not_eq_true, List.any_eq_true] at this
        exact this ⟨e, he, sys⟩
    cases k with
    | admitRefused =>
      refine ⟨⟨core, fun k' hk => ?_, fun some => (by cases some), fun counts => absurd rfl counts⟩, fun hk => absurd rfl hk, fun k' other => ?_, ?_⟩
      · cases k' with
        | admitRefused => exact absurd rfl hk
        | feedOverrun => exact others (by simp) hk
      · cases k' with
        | admitRefused => exact absurd rfl other
        | feedOverrun => rfl
      · exact less.le.trans (by omega)
    | feedOverrun =>
      refine ⟨⟨core, fun k' hk => ?_, h.firstId⟩, fun hk => absurd rfl hk, fun k' other => ?_, ?_⟩
      · cases k' with
        | admitRefused => exact others (by simp) hk
        | feedOverrun => exact absurd rfl hk
      · cases k' with
        | admitRefused => rfl
        | feedOverrun => exact absurd rfl other
      · exact less.le.trans (by omega)
  · rename_i short
    exact ⟨h, fun waits => by by_contra room; exact short ⟨waits, by omega⟩, fun _ _ => rfl, le_rfl⟩

/-- The work of a freed entry for the system kinds makes the queue sound again (R126). -/
theorem QueueFreed.serve (h : QueueFreed slack q) (p : BitVec 3) :
    QueueLoose slack ((q.queueWaiting .admitRefused p).queueWaiting .feedOverrun p) := by
  obtain ⟨h1, full1, -, -⟩ := h.queueWaiting .admitRefused p
  obtain ⟨h2, full2, same, less⟩ := h1.queueWaiting .feedOverrun p
  refine ⟨h2, fun k hk => ?_⟩
  cases k with
  | feedOverrun => exact full2 hk
  | admitRefused =>
    rw [same .admitRefused (by simp)] at hk
    have := full1 hk
    omega

end Queue

/-! ### The Reporter and a freed entry -/

section Reporter

variable {slack : Nat} {s : State}

theorem queueLoose_queueGroup (h : QueueLoose slack s.eq) (i : SlotNo) {group : List Notice} (fits : group.length ≤ s.eq.free) :
    QueueLoose slack (queueGroup i group s).eq := by
  induction group generalizing s with
  | nil => exact h
  | cons n group ih =>
    have eq : (queueNotice i s n).eq = s.eq.join (noticeKind s.zs.generation (s.slots.get i) n)
        (noticePriority s.zs.active s.params.objEventPrio n) := by cases n <;> rfl
    rw [List.length_cons] at fits
    refine ih (s := queueNotice i s n) ?_ ?_
    · rw [eq]
      exact h.join _ (by omega) (by simp) (by simp)
    · rw [eq, join_free]
      omega

theorem queueLoose_reconcile (h : QueueLoose slack s.eq) : QueueLoose slack (reconcile s).eq := by
  refine reconcile_keeps (P := fun s => QueueLoose slack s.eq) (fun s i h _ fits => ?_) h
  exact h.group s _ (by omega)

theorem queueLoose_freshGroup (h : QueueLoose slack s.eq) (i : SlotNo) (group : List Notice) : QueueLoose slack (freshGroup i group s).eq := by
  rcases freshGroup_cases i group s with ⟨-, e⟩ | ⟨-, -, fits, e⟩ | ⟨-, -, e⟩ | ⟨-, -, -, e⟩ <;> rw [e]
  · exact h
  · exact queueLoose_queueGroup h i fits
  · exact h
  · rcases markDirty_cases i s with e | e <;> rw [e]
    · exact h
    · exact queueLoose_reconcile h

/-- After the work of R126 the queue is sound again. -/
theorem queueLoose_entryFreed (h : QueueFreed slack s.eq) : QueueLoose slack (entryFreed s).eq :=
  queueLoose_reconcile (h.serve s.params.sysEventPrio)

@[simp] theorem queueWaiting_held (q : EventQueue) (k : SystemKind) (p : BitVec 3) : (q.queueWaiting k p).held = q.held := by
  unfold EventQueue.queueWaiting
  split
  · cases k <;> rfl
  · rfl

@[simp] theorem entryFreed_held (s : State) : (entryFreed s).eq.held = s.eq.held := by
  simp [entryFreed]

theorem queueLoose_commitObjects (h : QueueLoose slack s.eq) (changed : ZoneSet) : QueueLoose slack (commitObjects changed s).eq := by
  have fold (l : List SlotNo) (group : SlotNo → List Notice) (u : State) (hu : QueueLoose slack u.eq) :
      QueueLoose slack (l.foldl (fun s i => freshGroup i (group i) s) u).eq := by
    induction l generalizing u with
    | nil => exact hu
    | cons i l ih => exact ih _ (queueLoose_freshGroup hu i _)
  exact fold _ _ (s.withSlots _) h

end Reporter

/-! ### The redelivery of a held event (R121, R125) -/

section GiveBack

variable {slack : Nat} {q : EventQueue}

/-- The held list with the event of a held entry's number taken out has lost that entry alone. -/
theorem eraseP_seq {held : List Held} (seqs : (held.map fun h => h.event.seq).Nodup) {front back : List Held} {h : Held}
    (split : held = front ++ h :: back) : held.eraseP (fun x => x.event.seq == h.event.seq) = front ++ back := by
  subst split
  have front_other (x : Held) (hx : x ∈ front) : ¬ (x.event.seq == h.event.seq) = true := by
    simp only [List.map_append, List.map_cons, List.nodup_append, List.mem_map, List.mem_cons] at seqs
    simpa using seqs.2.2 x.event.seq ⟨x, hx, rfl⟩ h.event.seq (.inl rfl)
  rw [List.eraseP_append_right _ front_other, List.eraseP_cons_of_pos (by simp)]

theorem EventsCore.heldSeqs {waiting : List Event} {held : List Held} {next : Nat} (h : EventsCore slack waiting held next) :
    (held.map fun h => h.event.seq).Nodup := by
  have := h.seqs
  rw [List.map_append, List.nodup_append, List.map_map] at this
  exact this.2.1

/-- A system event of a kind that is pending once: it is the only one of its kind. -/
theorem eraseP_pending {waiting : List Event} {k : SystemKind} (seqs : (waiting.map (·.seq)).Nodup)
    (single : (waiting.filter (Event.isSystem k)).length ≤ 1) {p : Event} (found : waiting.find? (Event.isSystem k) = some p) :
    p ∈ waiting ∧ p.isSystem k = true ∧ (waiting.eraseP fun x => x.seq == p.seq).any (Event.isSystem k) = false ∧
    (waiting.eraseP fun x => x.seq == p.seq).length + 1 = waiting.length ∧
    ∀ x ∈ waiting.eraseP (fun x => x.seq == p.seq), x.seq ≠ p.seq := by
  have sys : p.isSystem k = true := List.find?_some found
  have mem := List.mem_of_find?_eq_some found
  obtain ⟨front, back, rfl⟩ := List.append_of_mem mem
  have front_other (x : Event) (hx : x ∈ front) : ¬ (x.seq == p.seq) = true := by
    simp only [List.map_append, List.map_cons, List.nodup_append, List.mem_map, List.mem_cons] at seqs
    simpa using seqs.2.2 x.seq ⟨x, hx, rfl⟩ p.seq (.inl rfl)
  have erased : (front ++ p :: back).eraseP (fun x => x.seq == p.seq) = front ++ back := by
    rw [List.eraseP_append_right _ front_other, List.eraseP_cons_of_pos (by simp)]
  rw [erased]
  refine ⟨mem, sys, ?_, by simp; omega, fun x hx same => ?_⟩
  · rw [List.filter_append, List.filter_cons_of_pos sys, List.length_append, List.length_cons] at single
    have none_left : (front ++ back).filter (Event.isSystem k) = [] := by
      rw [List.filter_append]
      exact List.append_eq_nil_iff.2 ⟨List.length_eq_zero_iff.1 (by omega), List.length_eq_zero_iff.1 (by omega)⟩
    simpa using none_left
  · rw [List.map_append, List.map_cons, List.nodup_middle, List.nodup_cons] at seqs
    exact seqs.1 (by rw [← same, ← List.map_append]; exact List.mem_map_of_mem hx)

/-- What is known of the queue while a held event is being given back: `rest` are the other held events, and the event's number and
arrival are nobody else's (R114, R116). -/
structure GivenBack (slack : Nat) (q : EventQueue) (x : Held) (rest : List Held) : Prop where
  left : q.held.eraseP (fun y => y.event.seq == x.event.seq) = rest
  heldSize : q.held.length = rest.length + 1
  core : EventsCore slack q.waiting rest q.nextArrival
  size : q.waiting.length + rest.length < 96
  seq : ∀ y ∈ q.waiting ++ rest.map (·.event), y.seq ≠ x.event.seq
  arrival : ∀ y ∈ q.waiting ++ rest.map (·.event), y.arrival ≠ x.event.arrival
  before : x.event.arrival < q.nextArrival
  reports : x.event.kind.system? ≠ none → x.event.kind.reports ≠ 0

theorem QueueLoose.givenBack (h : QueueLoose slack q) {x : Held} (held : x ∈ q.held) : ∃ rest, GivenBack slack q x rest := by
  obtain ⟨front, back, split⟩ := List.append_of_mem held
  have queued : (q.waiting ++ q.held.map (·.event)).Perm (x.event :: (q.waiting ++ (front ++ back).map (·.event))) := by
    rw [split, List.map_append, List.map_cons, List.map_append, ← List.append_assoc, ← List.append_assoc]
    exact List.perm_middle
  have heldSize : q.held.length = (front ++ back).length + 1 := by
    simp only [split, List.length_append, List.length_cons]
    omega
  refine ⟨front ++ back, eraseP_seq h.core.heldSeqs split, heldSize, h.core.sublist (List.Sublist.refl _) (by rw [split]; simp), ?_, ?_, ?_,
    h.core.older _ (queued.mem_iff.2 (by simp)), h.core.reports _ (queued.mem_iff.2 (by simp))⟩
  · have := h.core.size
    omega
  · have := (queued.map (·.seq)).nodup_iff.1 h.core.seqs
    rw [List.map_cons, List.nodup_cons] at this
    exact fun y hy same => this.1 (by rw [← same]; exact List.mem_map_of_mem hy)
  · have := (queued.map (·.arrival)).nodup_iff.1 h.core.arrivals
    rw [List.map_cons, List.nodup_cons] at this
    exact fun y hy same => this.1 (by rw [← same]; exact List.mem_map_of_mem hy)

/-- An event of another kind, inserted, leaves a kind without a pending event. -/
theorem any_insertEvent {e : Event} {l : List Event} {k : SystemKind} (other : ¬ e.isSystem k = true)
    (none_pending : l.any (Event.isSystem k) = false) : (insertEvent e l).any (Event.isSystem k) = false := by
  rw [← Bool.not_eq_true, List.any_eq_true] at none_pending ⊢
  rintro ⟨y, hy, isk⟩
  rcases (mem_insertEvent _ _ _).1 hy with rfl | hy
  · exact other isk
  · exact none_pending ⟨y, hy, isk⟩

theorem isSystem_unique {e : Event} {k k' : SystemKind} (sys : e.kind.system? = some k) (isk : e.isSystem k' = true) : k = k' := by
  simpa [Event.isSystem, sys] using isk

section Parts

variable {x : Held} {rest : List Held}

/-- The object event given back returns to its place. -/
theorem QueueLoose.returned_object (h : QueueLoose slack q) (g : GivenBack slack q x rest) (sys : x.event.kind.system? = none) :
    QueueLoose slack { q with held := rest, waiting := insertEvent { x.event with redelivered := true } q.waiting } := by
  have not_system (k : SystemKind) : ¬ ({ x.event with redelivered := true } : Event).isSystem k = true := by simp [Event.isSystem, sys]
  refine ⟨⟨?_, fun k hk => ?_, h.firstId⟩, fun k hk => ?_⟩
  · exact g.core.insert g.size g.seq g.arrival le_rfl g.before (by simp [sys]) fun k hk => absurd hk (not_system k)
  · exact any_insertEvent (not_system k) (h.counted k (by cases k <;> exact hk))
  · have := free_eq_zero.1 (h.full k (by cases k <;> exact hk))
    have := g.heldSize
    rw [free_eq_zero]
    simp only [insertEvent_length]
    omega

/-- A younger system event, given back, is absorbed by the pending one (R125). -/
theorem QueueLoose.absorbed (h : QueueLoose slack q) (g : GivenBack slack q x rest) (k : SystemKind) (n : BitVec 16) :
    QueueFreed slack (({ q with held := rest } : EventQueue).raisePending k n) :=
  have freed : QueueFreed slack { q with held := rest } := ⟨g.core, fun k' hk => h.counted k' (by cases k' <;> exact hk), h.firstId⟩
  freed.raise k n

/-- An older system event, given back, takes the pending one's place and its reports (R125). -/
theorem QueueLoose.replaced (h : QueueLoose slack q) (g : GivenBack slack q x rest) {k : SystemKind} (sys : x.event.kind.system? = some k)
    {p : Event} (found : q.waiting.find? (Event.isSystem k) = some p) (n : BitVec 16) :
    QueueFreed slack { q with
      held := rest
      waiting := insertEvent { x.event with redelivered := true, kind := x.event.kind.addReports n }
        (q.waiting.eraseP fun y => y.seq == p.seq) } := by
  obtain ⟨mem, isk, alone, shorter, -⟩ := eraseP_pending
    (by have := h.core.seqs; rw [List.map_append, List.nodup_append] at this; exact this.1) (h.core.single k) found
  have fewer : (q.waiting.eraseP fun y => y.seq == p.seq).Sublist q.waiting := List.eraseP_sublist
  have all : (q.waiting.eraseP (fun y => y.seq == p.seq) ++ rest.map (·.event)).Sublist (q.waiting ++ rest.map (·.event)) :=
    fewer.append_right _
  have sys' : (x.event.kind.addReports n).system? = some k := by simpa using sys
  refine ⟨?_, fun k' hk => ?_, h.firstId⟩
  · refine (g.core.sublist fewer (List.Sublist.refl _)).insert (by have := g.size; omega) (fun y hy => g.seq y (all.subset hy))
      (fun y hy => g.arrival y (all.subset hy)) le_rfl g.before (fun _ => addReports_reports (g.reports (by simp [sys]))) fun k' hk => ?_
    obtain rfl := isSystem_unique sys' hk
    exact alone
  · have none_pending := h.counted k' (by cases k' <;> exact hk)
    refine any_insertEvent (fun isk' => ?_) ?_
    · obtain rfl := isSystem_unique sys' isk'
      rw [← Bool.not_eq_true, List.any_eq_true] at none_pending
      exact none_pending ⟨p, mem, isk⟩
    · rw [← Bool.not_eq_true, List.any_eq_true] at none_pending ⊢
      exact fun ⟨y, hy, isy⟩ => none_pending ⟨y, fewer.subset hy, isy⟩

/-- A system event given back while none of its kind is pending takes the waiting count into its reports (R125). -/
theorem QueueLoose.returned_system (h : QueueLoose slack q) (g : GivenBack slack q x rest) {k : SystemKind}
    (sys : x.event.kind.system? = some k) (found : q.waiting.find? (Event.isSystem k) = none) (n : BitVec 16) :
    QueueLoose slack (EventQueue.clearWaiting { q with
      held := rest
      waiting := insertEvent { x.event with redelivered := true, kind := x.event.kind.addReports n } q.waiting } k) := by
  have none_pending : q.waiting.any (Event.isSystem k) = false := by simpa using List.find?_eq_none.1 found
  have sys' : (x.event.kind.addReports n).system? = some k := by simpa using sys
  have back_in := g.core.insert (e := { x.event with redelivered := true, kind := x.event.kind.addReports n }) g.size g.seq g.arrival
    le_rfl g.before (fun _ => addReports_reports (g.reports (by simp [sys])))
    (fun k' hk => by obtain rfl := isSystem_unique sys' hk; exact none_pending)
  have others {k' : SystemKind} (other : k ≠ k') (hk : q.waitingCount k' ≠ 0) :
      (insertEvent { x.event with redelivered := true, kind := x.event.kind.addReports n } q.waiting).any (Event.isSystem k') = false :=
    any_insertEvent (fun isk => other (isSystem_unique sys' isk)) (h.counted k' hk)
  have full {k' : SystemKind} (hk : q.waitingCount k' ≠ 0) : 96 ≤ q.waiting.length + 1 + rest.length := by
    have := free_eq_zero.1 (h.full k' hk)
    have := g.heldSize
    omega
  cases k with
  | admitRefused =>
    refine ⟨⟨back_in, fun k' hk => ?_, fun some => (by cases some), fun counts => absurd rfl counts⟩, fun k' hk => ?_⟩
    · cases k' with
      | admitRefused => exact absurd rfl hk
      | feedOverrun => exact others (by simp) hk
    · cases k' with
      | admitRefused => exact absurd rfl hk
      | feedOverrun => exact free_eq_zero.2 (by simpa [EventQueue.clearWaiting] using full (k' := .feedOverrun) hk)
  | feedOverrun =>
    refine ⟨⟨back_in, fun k' hk => ?_, h.firstId⟩, fun k' hk => ?_⟩
    · cases k' with
      | admitRefused => exact others (by simp) hk
      | feedOverrun => exact absurd rfl hk
    · cases k' with
      | admitRefused => exact free_eq_zero.2 (by simpa [EventQueue.clearWaiting] using full (k' := .admitRefused) hk)
      | feedOverrun => exact absurd rfl hk

end Parts

/-- A held event given back: with an entry freed, the queue awaits the work of R126; with none, it is sound. -/
theorem QueueLoose.giveBack (h : QueueLoose slack q) {x : Held} (held : x ∈ q.held) :
    (q.giveBack x).1.held = q.held.eraseP (fun y => y.event.seq == x.event.seq) ∧ QueueFreed slack (q.giveBack x).1 ∧
      ((q.giveBack x).2 = false → QueueLoose slack (q.giveBack x).1) := by
  obtain ⟨rest, g⟩ := h.givenBack held
  unfold EventQueue.giveBack
  dsimp only
  rw [g.left]
  cases sys : x.event.kind.system? with
  | none =>
    have loose := h.returned_object g sys
    exact ⟨rfl, loose.toQueueFreed, fun _ => loose⟩
  | some k =>
    dsimp only
    cases found : q.waiting.find? (Event.isSystem k) with
    | some p =>
      dsimp only
      split
      · exact ⟨rfl, h.absorbed g k _, by simp⟩
      · exact ⟨rfl, h.replaced g sys found _, by simp⟩
    | none =>
      have loose := h.returned_system g sys found (q.waitingCount k)
      exact ⟨by cases k <;> rfl, loose.toQueueFreed, fun _ => loose⟩

end GiveBack

section Redeliver

variable {slack : Nat} {s : State}

/-- A redelivered event leaves the held list, and the queue is sound again. -/
theorem queueLoose_redeliver (h : QueueLoose slack s.eq) {x : Held} (held : x ∈ s.eq.held) :
    QueueLoose slack (redeliver x s).eq ∧ (redeliver x s).eq.held = s.eq.held.eraseP fun y => y.event.seq == x.event.seq := by
  obtain ⟨left, freed, loose⟩ := h.giveBack held
  unfold redeliver
  dsimp only
  split
  · exact ⟨queueLoose_entryFreed freed, by rw [entryFreed_held]; exact left⟩
  · rename_i no_entry
    exact ⟨loose (by simpa using no_entry), left⟩

/-- The held events whose timers stand at their latest moment are redelivered one after another, and the others stay in their order. -/
theorem queueLoose_expireHeld {front held : List Held} (h : QueueLoose slack s.eq) (split : s.eq.held = front ++ held) :
    QueueLoose slack (held.foldl expireHeld s).eq ∧
    (held.foldl expireHeld s).eq.held = front ++ held.filter fun x => !x.timer.overdue := by
  induction held generalizing s front with
  | nil => exact ⟨h, by simpa using split⟩
  | cons x held ih =>
    rw [List.foldl_cons]
    cases late : x.timer.overdue with
    | true =>
      have e : expireHeld s x = redeliver x s := by simp [expireHeld, late]
      obtain ⟨loose, left⟩ := queueLoose_redeliver h (x := x) (by rw [split]; simp)
      rw [eraseP_seq h.core.heldSeqs split] at left
      rw [e, List.filter_cons_of_neg (by simp [late])]
      exact ih loose left
    | false =>
      have e : expireHeld s x = s := by simp [expireHeld, late]
      rw [e, List.filter_cons_of_pos (by simp [late])]
      have := ih (front := front ++ [x]) h (by simp [split])
      simpa using this

end Redeliver

/-! ### Every move, every millisecond -/

theorem queueLoose_reset (slack : Nat) : QueueLoose slack EventQueue.reset where
  core :=
    { size := by decide
      heldSize := by decide
      seqs := List.nodup_nil
      arrivals := List.nodup_nil
      older := fun _ he => nomatch he
      order := List.Pairwise.nil
      timers := fun _ hh => nomatch hh
      reports := fun _ he => nomatch he
      single := fun _ => Nat.zero_le 1 }
  counted := fun _ _ => rfl
  firstId := by decide
  full := fun k counts => absurd (by cases k <;> rfl) counts

/-- What leaves the Event Queue alone keeps it sound. -/
theorem queueLoose_same {slack : Nat} {s t : State} (h : QueueLoose slack s.eq) (same : t.eq = s.eq) : QueueLoose slack t.eq := by
  rw [same]
  exact h

theorem finishDeferred_eq (d : DeferredSlot) (r : Result) (b : List Byte) (s : State) : (finishDeferred d r b s).eq = s.eq := by
  rcases finishDeferred_cases d r b s with ⟨-, e⟩ | ⟨tag, -, ⟨-, e⟩ | ⟨-, e⟩⟩ <;> rw [e] <;> rfl

theorem replyDeparts_eq (s : State) : (replyDeparts s).eq = s.eq := by
  unfold replyDeparts
  split
  · rfl
  · unfold releaseHeldReply
    split
    · rfl
    · split <;> rfl

theorem applyCommit_eq (s : State) : applyCommit s = commitObjects s.zs.changedSet
    ((s.withZs (s.zs.commit s.ev.context.isSome)).withEv (s.ev.addVoid s.zs.changedSet)) := rfl

theorem queueLoose_move {ok : Prop} {slack : Nat} (s t : State) (h : QueueLoose slack s.eq) (m : Move ok s t) : QueueLoose slack t.eq := by
  cases m with
  | pinReset hrate frate => exact queueLoose_reset slack
  | restart => exact queueLoose_reset slack
  | departs => exact queueLoose_same h (replyDeparts_eq s)
  | commit closed =>
    rw [applyCommit_eq]
    apply queueLoose_commitObjects
    exact h
  | reconcile => exact queueLoose_reconcile h
  | retire i cause some_cause phase =>
    unfold retireObject
    apply queueLoose_freshGroup
    exact h
  | quiet i phase =>
    unfold becomeQuiet
    apply queueLoose_freshGroup
    exact h
  | write c i f holds =>
    unfold writeCompletion
    apply queueLoose_freshGroup
    exact h
  | take e rest keepArmed room first =>
    have waiting : s.eq.waiting.Sublist (e :: rest) := by rw [first]
    have core := h.core
    rw [first] at core
    refine ⟨⟨core.hold room _, fun k counts => ?_, h.firstId⟩, fun k counts => ?_⟩
    · have := h.counted k (by cases k <;> exact counts)
      rw [first, List.any_cons, Bool.or_eq_false_iff] at this
      exact this.2
    · have := free_eq_zero.1 (h.full k (by cases k <;> exact counts))
      rw [first] at this
      rw [free_eq_zero]
      simp only [State.withEq_eq, EventQueue.take, List.length_append, List.length_cons, List.length_nil] at *
      omega
  | release seq =>
    refine queueLoose_entryFreed (s := s.withEq _) ⟨h.core.sublist (List.Sublist.refl _) List.eraseP_sublist, fun k counts => ?_, h.firstId⟩
    exact h.counted k (by cases k <;> exact counts)
  | releaseLate seq =>
    refine queueLoose_entryFreed (s := s.withEq _) ⟨h.core.sublist List.eraseP_sublist (List.Sublist.refl _), fun k counts => ?_, h.firstId⟩
    have none_pending := h.counted k (by cases k <;> exact counts)
    rw [List.any_eq_false] at none_pending ⊢
    exact fun e he => none_pending e (List.eraseP_sublist.subset he)
  | arm mask armed =>
    exact ⟨⟨h.core, fun k counts => h.counted k (by cases k <;> exact counts), h.firstId⟩,
      fun k counts => h.full k (by cases k <;> exact counts)⟩
  | redeliver x held => exact (queueLoose_redeliver h held).1
  | expireHeld => exact (queueLoose_expireHeld (front := []) h (List.nil_append _).symm).1
  | report k id => exact h.report k id _
  | refuseHostFix tag f r idle waits =>
    exact queueLoose_same (s := s.withHlc _) h (finishDeferred_eq .fix r [] (s.withHlc _))
  | endHostFix r body busy => exact queueLoose_same h (finishDeferred_eq .fix r body s)
  | endQuery r body busy => exact queueLoose_same h (finishDeferred_eq .query r body s)
  | _ => exact h

/-! ### A millisecond -/

/-- A millisecond brings no timer further than 1 ms past its length (R1). -/
theorem queueLoose_count {s : State} (h : QueueLoose 0 s.eq) : QueueLoose 1 (countMillisecond s).eq := by
  have events : ((countMillisecond s).eq.held.map (·.event)) = s.eq.held.map (·.event) := by
    simp [countMillisecond, Function.comp_def]
  have length : (countMillisecond s).eq.held.length = s.eq.held.length := by simp [countMillisecond]
  have free : (countMillisecond s).eq.free = s.eq.free := by
    simp [EventQueue.free, countMillisecond]
  refine ⟨⟨⟨?_, ?_, ?_, ?_, ?_, h.core.order, ?_, ?_, h.core.single⟩, fun k counts => h.counted k (by cases k <;> exact counts), h.firstId⟩,
    fun k counts => ?_⟩
  · rw [length]
    exact h.core.size
  · rw [length]
    exact h.core.heldSize
  · rw [events]
    exact h.core.seqs
  · rw [events]
    exact h.core.arrivals
  · rw [events]
    exact h.core.older
  · intro x hx
    obtain ⟨y, hy, rfl⟩ := List.mem_map.1 hx
    obtain ⟨length, elapsed, timer, within⟩ := h.core.timers y hy
    exact ⟨length, elapsed + 1, by simp [timer, Timer.tick], by omega⟩
  · rw [events]
    exact h.core.reports
  · rw [free]
    exact h.full k (by cases k <;> exact counts)

/-- The slots' expiries leave the held list (R56, R59). -/
theorem expireSlots_held (l : List SlotNo) (s : State) : (l.foldl expireSlot s).eq.held = s.eq.held := by
  induction l generalizing s with
  | nil => rfl
  | cons i l ih => rw [List.foldl_cons, ih, expireSlot_held]

theorem walkOn_eq (s : State) : (walkOn s).eq = s.eq := by
  unfold walkOn
  split <;> rfl

theorem expireGaps_eq (s : State) : (expireGaps s).eq = s.eq := by
  have host (s : State) : (if s.hlc.framer.gapOverdue then abandonHostFrame s else s).eq = s.eq := by split <;> rfl
  have feed (s : State) : (if s.flr.framer.gapOverdue then abandonFeedFrame s else s).eq = s.eq := by split <;> rfl
  exact (feed _).trans (host s)

/-- After a millisecond the queue is sound but for 1 ms, and the held events are those whose timers have not passed their lengths. -/
theorem queueLoose_millisecond {s : State} (h : QueueLoose 0 s.eq) :
    QueueLoose 1 (millisecond s).eq ∧ (millisecond s).eq.held = (countMillisecond s).eq.held.filter fun x => !x.timer.overdue := by
  have slots := (foldl_moves (ok := False) expireSlot_moves (List.finRange 128) (countMillisecond s)).keeps
    (P := fun s => QueueLoose 1 s.eq) queueLoose_move (queueLoose_count h)
  have held := queueLoose_expireHeld (front := []) slots (List.nil_append _).symm
  rw [expireSlots_held] at held
  unfold millisecond
  rw [walkOn_eq]
  unfold expireOverdue
  rw [expireGaps_eq, expireSlots_held]
  exact held

/-- A queue that is sound but for 1 ms, none of whose timers has passed its length, is sound. -/
theorem QueueLoose.tighten {q : EventQueue} (h : QueueLoose 1 q) (none_late : ∀ x ∈ q.held, x.timer.overdue = false) : QueueLoose 0 q := by
  refine ⟨⟨{ h.core with timers := fun x hx => ?_ }, h.counted, h.firstId⟩, h.full⟩
  obtain ⟨length, elapsed, timer, -⟩ := h.core.timers x hx
  have := none_late x hx
  rw [timer] at this
  exact ⟨length, elapsed, timer, by simpa [Timer.overdue] using this⟩

/-- Settles O58: every move keeps the queue sound, and a millisecond takes every timer that has passed its length. -/
theorem stepsKeepTheQueueSound : Obligations.StepsKeepTheQueueSound := by
  intro s t sound stepped
  rw [queueSound_iff] at *
  refine step_keeps (ok := False) (P := fun s => QueueLoose 0 s.eq) (by simp) (by simp) queueLoose_move (fun _ h => h) (fun h => ?_) sound stepped
  obtain ⟨loose, held⟩ := queueLoose_millisecond h
  refine loose.tighten fun x hx => ?_
  rw [held, List.mem_filter] at hx
  simpa using hx.2

end Sys2Proof.Machine
end

section
/-! SUPPORT. What the Reporter leaves of a slot: its object, and of the told record what it could be told (R94 to R105). -/

namespace Sys2Proof.Machine

set_option Elab.async false

/-! ### Groups -/

/-- A group as the part forms them: RETIRED, for a RETIRING object alone, comes last, and QUIET is for a QUIET object alone (R92, R101). -/
structure ProperGroup (sl : Slot) (group : List Notice) : Prop where
  shape : ∃ front, (∀ c, Notice.retired c ∉ front) ∧
    (group = front ∨ sl.phase = .retiring ∧ ∃ c, group = front ++ [Notice.retired c])
  quiet : ∀ c, Notice.quiet c ∈ group → sl.phase = .quiet

theorem quiet_mem_catchUpStay {sl : Slot} {c : Cause} (h : Notice.quiet c ∈ catchUpStay sl) : sl.phase = .quiet := by
  simp only [catchUpStay, exits, enters, List.mem_append, List.mem_map] at h
  rcases h with ((h | ⟨z, -, h⟩) | ⟨z, -, h⟩) | h
  · split at h <;> simp at h
  · cases h
  · cases h
  · split at h
    · rename_i quiet
      exact quiet.1
    · simp at h

/-- The group of a retirement (R61). -/
theorem properGroup_retire {sl : Slot} (h : sl.phase = .retiring) (zones : ZoneSet) (cause : RetireCause) :
    ProperGroup sl (exits zones .retire ++ [Notice.retired cause]) :=
  ⟨⟨_, retired_notMem_exits zones _, .inr ⟨h, _, rfl⟩⟩, fun c hc => by simp [exits] at hc⟩

/-- The group of a quiet expiry (R56). -/
theorem properGroup_quiet {sl : Slot} (h : sl.phase = .quiet) (active : Table ActiveRec 64) (old : Slot) :
    ProperGroup sl (quietGroup active old) :=
  ⟨⟨_, fun c => by simp [quietGroup], .inl rfl⟩, fun _ _ => h⟩

/-- The group of a written completion (R86). -/
theorem properGroup_completion (sl : Slot) (active : Table ActiveRec 64) (c : Context) (old : Slot) :
    ProperGroup sl (completionGroup active c old) := by
  refine ⟨⟨_, fun c => ?_, .inl rfl⟩, fun c hc => ?_⟩
  · simp only [completionGroup, List.mem_append, not_or]
    refine ⟨⟨?_, retired_notMem_exits _ _ _⟩, retired_notMem_enters _ _ _⟩
    split <;> simp
  · simp only [completionGroup, exits, enters, List.mem_append, List.mem_map] at hc
    rcases hc with (hc | ⟨z, -, hc⟩) | ⟨z, -, hc⟩
    · split at hc <;> simp at hc
    · cases hc
    · cases hc

/-- The group of forced exits (R66). -/
theorem properGroup_forced (sl : Slot) (active : Table ActiveRec 64) (changed : ZoneSet) (old : Slot) :
    ProperGroup sl (forcedExits active changed old) :=
  ⟨⟨_, fun c => by simp [forcedExits], .inl rfl⟩, fun c hc => by simp [forcedExits] at hc⟩

/-! ### What becomes of a slot -/

/-- What the Reporter can make of a slot: it frees a RETIRING one, or it writes the told record and the dirty mark, and makes no TRACKED object
one that was told QUIET (R95, R96, R101). -/
def Slot.Reported (sl sl' : Slot) : Prop :=
  (sl.phase = .retiring ∧ sl'.phase = .free) ∨
  (∃ told toldQuiet dirty, sl' = { sl with toldSet := told, toldQuiet := toldQuiet, dirty := dirty } ∧
    (toldQuiet = true → sl.toldQuiet = true ∨ sl.phase ≠ .tracked))

theorem Slot.Reported.refl (sl : Slot) : sl.Reported sl :=
  .inr ⟨_, _, _, rfl, .inl⟩

theorem Slot.Reported.of_eq {sl sl' : Slot} (h : sl' = sl) : sl.Reported sl' :=
  h ▸ .refl sl

theorem Slot.Reported.trans {a b c : Slot} (h : a.Reported b) (k : b.Reported c) : a.Reported c := by
  rcases h with ⟨retiring, free⟩ | ⟨told, quiet, dirty, rfl, owed⟩
  · rcases k with ⟨retiring', -⟩ | ⟨told, quiet, dirty, rfl, owed⟩
    · rw [free] at retiring'
      cases retiring'
    · exact .inl ⟨retiring, free⟩
  · rcases k with ⟨retiring, free⟩ | ⟨told', quiet', dirty', rfl, owed'⟩
    · exact .inl ⟨retiring, free⟩
    · exact .inr ⟨_, _, _, rfl, fun h => (owed' h).elim owed .inr⟩

theorem reported_dirty (sl : Slot) (d : Bool) : sl.Reported { sl with dirty := d } :=
  .inr ⟨_, _, _, rfl, .inl⟩

theorem reported_told {sl : Slot} {n : Notice} (quiet : ∀ c, n = .quiet c → sl.phase = .quiet) : sl.Reported (sl.told n) := by
  cases n with
  | quiet c => exact .inr ⟨_, _, _, rfl, fun _ => .inr (by simp [quiet c rfl])⟩
  | resumed c => exact .inr ⟨_, _, _, rfl, by simp⟩
  | exit z c => exact .inr ⟨_, _, _, rfl, .inl⟩
  | enter z c => exact .inr ⟨_, _, _, rfl, .inl⟩
  | retired c => exact .refl sl

@[simp] theorem told_phase (sl : Slot) (n : Notice) : (sl.told n).phase = sl.phase :=
  (told_timers sl n).1

theorem reported_toldAll {sl : Slot} {group : List Notice} (quiet : ∀ c, Notice.quiet c ∈ group → sl.phase = .quiet) :
    sl.Reported (sl.toldAll group) := by
  induction group generalizing sl with
  | nil => exact .refl sl
  | cons n group ih =>
    refine (reported_told fun c hc => quiet c (by simp [hc])).trans (ih fun c hc => ?_)
    rw [told_phase]
    exact quiet c (by simp [hc])

theorem reported_caughtUp (sl : Slot) : sl.Reported sl.caughtUp := by
  unfold Slot.caughtUp
  split
  · rename_i h
    exact .inl ⟨h, rfl⟩
  · exact .inr ⟨_, _, _, rfl, by simp⟩
  · rename_i h
    exact .inr ⟨_, _, _, rfl, fun _ => .inr (by simp [h])⟩
  · exact .inr ⟨_, _, _, rfl, .inl⟩

/-! ### A queued group and a fresh group -/

/-- A proper group joins the queue in its order, and its slot is told all of it or freed; no other slot moves (R94 to R96). -/
theorem queueGroup_spec {i : SlotNo} {group : List Notice} {s : State} (proper : ProperGroup (s.slots.get i) group) :
    (queueGroup i group s).eq = joined s.eq (group.map (noticeEvent s (s.slots.get i))) ∧
    (∀ j, j ≠ i → (queueGroup i group s).slots.get j = s.slots.get j) ∧
    (s.slots.get i).Reported ((queueGroup i group s).slots.get i) := by
  obtain ⟨⟨front, stays, rfl | ⟨retiring, c, rfl⟩⟩, quiet⟩ := proper
  · rw [queueGroup_stays stays]
    refine ⟨rfl, fun j other => Table.get_set_ne _ _ (Ne.symm other), ?_⟩
    simpa using reported_toldAll quiet
  · rw [queueGroup_retires c stays]
    refine ⟨rfl, fun j other => Table.get_set_ne _ _ (Ne.symm other), .inl ⟨retiring, ?_⟩⟩
    simp [freeSlot, Slot.empty]

/-- An object that becomes dirty is served at once when the dirty list was empty and its catch-up group fits, and else waits; no other slot
moves (R97, R103, R104). -/
theorem markDirty_alone (i : SlotNo) (s : State) :
    markDirty i s = markedDirty i s ∨ s.dirty = [] ∧ (catchUpGroup (s.slots.get i)).length + 8 ≤ s.eq.free ∧
      markDirty i s = caughtUpState i (markedDirty i s) := by
  unfold markDirty
  dsimp only
  split
  · rename_i clean
    have clean : s.dirty = [] := by simpa using clean
    have only : (markedDirty i s).dirty = [i] := by simp [markedDirty, clean]
    have group : catchUpGroup ((markedDirty i s).slots.get i) = catchUpGroup (s.slots.get i) := by simp [markedDirty]
    have same : (s.withSlots (s.slots.modify i fun sl => { sl with dirty := true })).withDirty (s.dirty ++ [i]) = markedDirty i s := rfl
    rw [same]
    by_cases fits : (catchUpGroup (s.slots.get i)).length + 8 ≤ s.eq.free
    · refine .inr ⟨clean, fits, ?_⟩
      rw [reconcile_acts only (by simp [only]) (by rw [group]; exact fits)]
      exact reconcile_clean (by simp [caughtUpState, only])
    · exact .inl (reconcile_waits only (by rw [group]; show s.eq.free < _; omega))
  · exact .inl rfl

/-- A fresh group moves no slot but its own (R94, R97). -/
theorem freshGroup_other {i j : SlotNo} {group : List Notice} {s : State} (proper : ProperGroup (s.slots.get i) group) (other : j ≠ i) :
    (freshGroup i group s).slots.get j = s.slots.get j := by
  rcases freshGroup_cases i group s with ⟨-, e⟩ | ⟨-, -, -, e⟩ | ⟨-, -, e⟩ | ⟨-, -, -, e⟩ <;> rw [e]
  · exact (queueGroup_spec proper).2.1 j other
  · rcases markDirty_alone i s with e | ⟨-, -, e⟩ <;> rw [e]
    · exact Table.get_set_ne _ _ (Ne.symm other)
    · simp [caughtUpState, markedDirty, Ne.symm other]

theorem freshGroup_reported {i : SlotNo} {group : List Notice} {s : State} (proper : ProperGroup (s.slots.get i) group) (j : SlotNo) :
    (s.slots.get j).Reported ((freshGroup i group s).slots.get j) := by
  by_cases other : j ≠ i
  · exact .of_eq (freshGroup_other proper other)
  obtain rfl : j = i := not_not.1 other
  rcases freshGroup_cases j group s with ⟨-, e⟩ | ⟨-, -, -, e⟩ | ⟨-, -, e⟩ | ⟨-, -, -, e⟩ <;> rw [e]
  · exact .refl _
  · exact (queueGroup_spec proper).2.2
  · exact .refl _
  · rcases markDirty_alone j s with e | ⟨-, -, e⟩ <;> rw [e]
    · simpa [markedDirty] using reported_dirty _ true
    · simpa [caughtUpState, markedDirty] using (reported_dirty (s.slots.get j) true).trans (reported_caughtUp _)

/-- The reconciler leaves of every slot what the Reporter may. -/
theorem reconcile_reported (s : State) (j : SlotNo) : (s.slots.get j).Reported ((reconcile s).slots.get j) := by
  refine reconcile_keeps (P := fun t => (s.slots.get j).Reported (t.slots.get j)) (fun t i h _ _ => h.trans ?_) (.refl _)
  by_cases other : i = j
  · subst other
    simpa [caughtUpState] using reported_caughtUp _
  · exact .of_eq (by simp [caughtUpState, other])

theorem entryFreed_reported (s : State) (j : SlotNo) : (s.slots.get j).Reported ((entryFreed s).slots.get j) :=
  reconcile_reported
    (s.withEq ((s.eq.queueWaiting .admitRefused s.params.sysEventPrio).queueWaiting .feedOverrun s.params.sysEventPrio)) j

theorem redeliver_reported (h : Held) (s : State) (j : SlotNo) : (s.slots.get j).Reported ((redeliver h s).slots.get j) := by
  unfold redeliver
  dsimp only
  split
  · exact entryFreed_reported (s.withEq (s.eq.giveBack h).1) j
  · exact .refl _

theorem redeliver_same (h : Held) (s : State) : SameBesides s (redeliver h s) := by
  unfold redeliver
  dsimp only
  split
  · exact entryFreed_same (s.withEq _)
  · exact .refl s

theorem expireHeld_reported (held : List Held) (s : State) (j : SlotNo) :
    (s.slots.get j).Reported ((held.foldl expireHeld s).slots.get j) := by
  induction held generalizing s with
  | nil => exact .refl _
  | cons h held ih =>
    refine Slot.Reported.trans ?_ (ih (expireHeld s h))
    unfold expireHeld
    split
    · exact redeliver_reported h s j
    · exact .refl _

theorem expireHeld_same (held : List Held) (s : State) : SameBesides s (held.foldl expireHeld s) := by
  induction held generalizing s with
  | nil => exact .refl s
  | cons h held ih =>
    refine SameBesides.trans ?_ (ih (expireHeld s h))
    unfold expireHeld
    split
    · exact redeliver_same h s
    · exact .refl s

/-! ### The groups of a commit -/

/-- The groups of a commit are handed over one after another, each to its own slot (R66). -/
theorem commitGroups_slots {group : SlotNo → List Notice} (proper : ∀ i sl, ProperGroup sl (group i)) (l : List SlotNo) (s : State) (j : SlotNo) :
    (j ∉ l → (l.foldl (fun s i => freshGroup i (group i) s) s).slots.get j = s.slots.get j) ∧
    (s.slots.get j).Reported ((l.foldl (fun s i => freshGroup i (group i) s) s).slots.get j) := by
  induction l generalizing s with
  | nil => exact ⟨fun _ => rfl, .refl _⟩
  | cons i l ih =>
    obtain ⟨untouched, reported⟩ := ih (freshGroup i (group i) s)
    refine ⟨fun absent => ?_, (freshGroup_reported (proper i _) j).trans reported⟩
    rw [List.mem_cons, not_or] at absent
    exact (untouched absent.2).trans (freshGroup_other (proper i _) absent.1)

/-- The plan taken, before the forced exits (R36, R39). -/
def planTaken (s : State) : State :=
  (s.withZs (s.zs.commit s.ev.context.isSome)).withEv (s.ev.addVoid s.zs.changedSet)

theorem applyCommit_planTaken (s : State) : applyCommit s = commitObjects s.zs.changedSet (planTaken s) := rfl

theorem applyCommit_same (s : State) : SameBesides (planTaken s) (applyCommit s) :=
  commitObjects_same _ _

theorem SameBesides.zs {s t : State} (h : SameBesides s t) : t.zs = s.zs := by
  obtain ⟨-, -, -, -, zs, -⟩ := h
  exact zs

theorem SameBesides.params {s t : State} (h : SameBesides s t) : t.params = s.params := by
  obtain ⟨-, -, -, -, -, -, -, -, params⟩ := h
  exact params

/-- A slot after a commit is the slot with its consequences, but for what the Reporter writes (R65, R66). -/
theorem applyCommit_reported (s : State) (j : SlotNo) :
    (commitSlot (s.zs.commit s.ev.context.isSome).active s.zs.changedSet (s.slots.get j)).Reported ((applyCommit s).slots.get j) := by
  have h := (commitGroups_slots (fun i sl => properGroup_forced sl (s.zs.commit s.ev.context.isSome).active s.zs.changedSet (s.slots.get i))
    (List.finRange 128) ((planTaken s).withSlots (s.slots.map (commitSlot (s.zs.commit s.ev.context.isSome).active s.zs.changedSet))) j).2
  simp only [State.withSlots_slots, Table.get_map] at h
  exact h

end Sys2Proof.Machine
end

section
/-! SUPPORT. Every step keeps the queued events with the parts of their kinds (R93, R112). -/

namespace Sys2Proof.Machine

set_option Elab.async false

/-- An object whose RESUMED is still owed has a fix to carry (R93). -/
def Slot.resumable (sl : Slot) : Prop :=
  sl.phase = .tracked → sl.toldQuiet = true → sl.lastFix.isSome = true

theorem Slot.Reported.resumable {sl sl' : Slot} (h : sl.Reported sl') (k : sl.resumable) : sl'.resumable := by
  rcases h with ⟨-, free⟩ | ⟨told, quiet, dirty, rfl, owed⟩
  · intro tracked
    rw [free] at tracked
    cases tracked
  · intro tracked toldQuiet
    exact (owed toldQuiet).elim (k tracked) fun other => absurd tracked other

theorem wellMade_catchUp (s : State) {sl : Slot} (h : sl.resumable) {n : Notice} (hn : n ∈ catchUpGroup sl) :
    (noticeEvent s sl n).1.wellMade := by
  simp only [catchUpGroup, exits, enters, List.mem_append, List.mem_map] at hn
  rcases hn with (((hn | ⟨z, -, rfl⟩) | ⟨z, -, rfl⟩) | hn) | hn
  · split at hn
    · rename_i owed
      rw [List.mem_singleton.1 hn]
      exact ⟨.inr rfl, by simpa [Slot.fixPart] using h owed.1 owed.2⟩
    · simp at hn
  · exact .inr (.inl rfl)
  · exact .inr rfl
  · split at hn
    · rw [List.mem_singleton.1 hn]
      exact .inr rfl
    · simp at hn
  · split at hn
    · rw [List.mem_singleton.1 hn]
      cases cause : sl.cause <;> simp [noticeEvent, noticeKind, EventKind.wellMade, RetireCause.cause]
    · simp at hn

theorem wellMade_exits (s : State) (sl : Slot) {zones : ZoneSet} {c : Cause} (other : c ≠ .fix) (later : c ≠ .catchup) {n : Notice}
    (hn : n ∈ exits zones c) : (noticeEvent s sl n).1.wellMade := by
  obtain ⟨z, -, rfl⟩ := List.mem_map.1 hn
  refine .inr (.inr ⟨other, later, ?_⟩)
  cases c <;> simp_all [zoneFixPart]

theorem wellMade_retire (s : State) (sl : Slot) {zones : ZoneSet} {cause : RetireCause} {n : Notice}
    (hn : n ∈ exits zones .retire ++ [Notice.retired cause]) : (noticeEvent s sl n).1.wellMade := by
  rcases List.mem_append.1 hn with hn | hn
  · exact wellMade_exits s sl (by simp) (by simp) hn
  · rw [List.mem_singleton.1 hn]
    cases cause <;> simp [noticeEvent, noticeKind, EventKind.wellMade, RetireCause.cause]

theorem wellMade_quiet (s : State) (sl : Slot) {active : Table ActiveRec 64} {old : Slot} {n : Notice} (hn : n ∈ quietGroup active old) :
    (noticeEvent s sl n).1.wellMade := by
  rcases List.mem_append.1 hn with hn | hn
  · exact wellMade_exits s sl (by simp) (by simp) hn
  · rw [List.mem_singleton.1 hn]
    exact .inl rfl

theorem wellMade_completion (s : State) {sl : Slot} (fix : sl.lastFix.isSome = true) {active : Table ActiveRec 64} {c : Context} {old : Slot}
    {n : Notice} (hn : n ∈ completionGroup active c old) : (noticeEvent s sl n).1.wellMade := by
  have part : sl.fixPart.isSome = true := by simpa [Slot.fixPart] using fix
  simp only [completionGroup, exits, enters, List.mem_append, List.mem_map] at hn
  rcases hn with (hn | ⟨z, -, rfl⟩) | ⟨z, -, rfl⟩
  · split at hn
    · rw [List.mem_singleton.1 hn]
      exact ⟨.inl rfl, part⟩
    · simp at hn
  · exact .inl ⟨rfl, part⟩
  · exact .inl ⟨rfl, part⟩

theorem wellMade_forced (s : State) (sl : Slot) {active : Table ActiveRec 64} {changed : ZoneSet} {old : Slot} {n : Notice}
    (hn : n ∈ forcedExits active changed old) : (noticeEvent s sl n).1.wellMade := by
  obtain ⟨z, -, rfl⟩ := List.mem_map.1 hn
  refine .inr (.inr ?_)
  split <;> exact ⟨by simp, by simp, rfl⟩

/-! ### Each operation -/

theorem wellMade_joined {q : EventQueue} {es : List (EventKind × BitVec 3)} (h : ∀ e ∈ q.queued, e.kind.wellMade)
    (new : ∀ x ∈ es, x.1.wellMade) : ∀ e ∈ (joined q es).queued, e.kind.wellMade := by
  intro e he
  rcases mem_joined_queued he with he | ⟨x, hx, kind⟩
  · exact h e he
  · rw [kind]
    exact new x hx

/-- What the Reporter may make of the slots keeps the events well made when the queue's are. -/
theorem eventsWellMade_reported {s t : State} (h : EventsWellMade s) (queue : ∀ e ∈ t.eq.queued, e.kind.wellMade)
    (slots : ∀ j, (s.slots.get j).Reported (t.slots.get j)) : EventsWellMade t :=
  ⟨queue, fun i => (slots i).resumable (h.2 i)⟩

theorem eventsWellMade_caughtUp {s : State} (h : EventsWellMade s) (i : SlotNo) :
    ∀ e ∈ (caughtUpState i s).eq.queued, e.kind.wellMade := by
  refine wellMade_joined h.1 fun x hx => ?_
  obtain ⟨n, hn, rfl⟩ := List.mem_map.1 hx
  exact wellMade_catchUp s (h.2 i) hn

theorem eventsWellMade_reconcile {s : State} (h : EventsWellMade s) : EventsWellMade (reconcile s) := by
  refine reconcile_keeps (P := EventsWellMade) (fun s i h _ _ => eventsWellMade_reported h (eventsWellMade_caughtUp h i) fun j => ?_) h
  by_cases other : i = j
  · subst other
    simpa [caughtUpState] using reported_caughtUp _
  · exact .of_eq (by simp [caughtUpState, other])

theorem eventsWellMade_freshGroup {i : SlotNo} {group : List Notice} {s : State} (h : EventsWellMade s)
    (proper : ProperGroup (s.slots.get i) group) (made : ∀ n ∈ group, (noticeEvent s (s.slots.get i) n).1.wellMade) :
    EventsWellMade (freshGroup i group s) := by
  refine eventsWellMade_reported h ?_ (freshGroup_reported proper)
  rcases freshGroup_cases i group s with ⟨-, e⟩ | ⟨-, -, -, e⟩ | ⟨-, -, e⟩ | ⟨-, -, -, e⟩ <;> rw [e]
  · exact h.1
  · rw [(queueGroup_spec proper).1]
    refine wellMade_joined h.1 fun x hx => ?_
    obtain ⟨n, hn, rfl⟩ := List.mem_map.1 hx
    exact made n hn
  · exact h.1
  · have marked : EventsWellMade (markedDirty i s) := by
      refine ⟨h.1, fun j => ?_⟩
      by_cases other : i = j
      · subst other
        simpa [markedDirty] using h.2 i
      · simpa [markedDirty, other] using h.2 j
    rcases markDirty_alone i s with e | ⟨-, -, e⟩ <;> rw [e]
    · exact h.1
    · exact eventsWellMade_caughtUp marked i

theorem wellMade_addReports {k : EventKind} (h : k.wellMade) (n : BitVec 16) : (k.addReports n).wellMade := by
  cases k <;> exact h

theorem wellMade_raise {q : EventQueue} (h : ∀ e ∈ q.queued, e.kind.wellMade) (k : SystemKind) (n : BitVec 16) :
    ∀ e ∈ (q.raisePending k n).queued, e.kind.wellMade := by
  intro e he
  rcases List.mem_append.1 he with he | he
  · rw [raisePending_waiting] at he
    obtain ⟨x, hx, rfl⟩ := List.mem_map.1 he
    have made := h x (by simp [EventQueue.queued, hx])
    unfold Event.raised
    split
    · exact wellMade_addReports made n
    · exact made
  · exact h e (List.mem_append_right _ he)

theorem wellMade_join {q : EventQueue} (h : ∀ e ∈ q.queued, e.kind.wellMade) {kind : EventKind} (made : kind.wellMade) (p : BitVec 3) :
    ∀ e ∈ (q.join kind p).queued, e.kind.wellMade :=
  wellMade_joined (es := [(kind, p)]) h (by simpa using made)

theorem wellMade_report {q : EventQueue} (h : ∀ e ∈ q.queued, e.kind.wellMade) (k : SystemKind) (id : ObjId) (p : BitVec 3) :
    ∀ e ∈ (q.report k id p).queued, e.kind.wellMade := by
  unfold EventQueue.report
  split
  · exact wellMade_raise h k 1
  · split
    · cases k with
      | admitRefused => exact wellMade_join (kind := .admitRefused id 1) h trivial p
      | feedOverrun => exact wellMade_join (kind := .feedOverrun 1) h trivial p
    · cases k <;> exact h

@[simp] theorem clearWaiting_queued (q : EventQueue) (k : SystemKind) : (q.clearWaiting k).queued = q.queued := by
  cases k <;> rfl

theorem wellMade_queueWaiting {q : EventQueue} (h : ∀ e ∈ q.queued, e.kind.wellMade) (k : SystemKind) (p : BitVec 3) :
    ∀ e ∈ (q.queueWaiting k p).queued, e.kind.wellMade := by
  have made : (q.waitingKind k).wellMade := by cases k <;> trivial
  unfold EventQueue.queueWaiting
  split
  · rw [clearWaiting_queued]
    exact wellMade_join h made p
  · exact h

theorem eventsWellMade_withEq {s : State} {q : EventQueue} (h : EventsWellMade s) (made : ∀ e ∈ q.queued, e.kind.wellMade) :
    EventsWellMade (s.withEq q) :=
  ⟨made, h.2⟩

theorem eventsWellMade_entryFreed {s : State} (h : EventsWellMade s) : EventsWellMade (entryFreed s) :=
  eventsWellMade_reconcile (eventsWellMade_withEq h (wellMade_queueWaiting (wellMade_queueWaiting h.1 _ _) _ _))

theorem wellMade_giveBack {q : EventQueue} (h : ∀ e ∈ q.queued, e.kind.wellMade) {x : Held} (made : x.event.kind.wellMade) :
    ∀ e ∈ (q.giveBack x).1.queued, e.kind.wellMade := by
  have left : ∀ e ∈ ({ q with held := q.held.eraseP fun y => y.event.seq == x.event.seq } : EventQueue).queued, e.kind.wellMade :=
    fun e he => h e (((List.eraseP_sublist.map _).append_left q.waiting).subset he)
  have placed {waiting : List Event} {e : Event} (old : ∀ e ∈ waiting, e.kind.wellMade) (new : e.kind.wellMade) :
      ∀ y ∈ insertEvent e waiting ++ (q.held.eraseP fun y => y.event.seq == x.event.seq).map (·.event), y.kind.wellMade := by
    intro y hy
    rcases List.mem_append.1 hy with hy | hy
    · rcases (mem_insertEvent _ _ _).1 hy with rfl | hy
      · exact new
      · exact old y hy
    · exact left y (List.mem_append_right _ hy)
  have pending : ∀ e ∈ q.waiting, e.kind.wellMade := fun e he => h e (List.mem_append_left _ he)
  unfold EventQueue.giveBack
  dsimp only
  split
  · exact placed pending made
  · split
    · split
      · exact wellMade_raise left _ _
      · exact placed (fun e he => pending e (List.eraseP_sublist.subset he)) (wellMade_addReports made _)
    · rw [clearWaiting_queued]
      exact placed pending (wellMade_addReports made _)

theorem eventsWellMade_redeliver {s : State} (h : EventsWellMade s) {x : Held} (made : x.event.kind.wellMade) :
    EventsWellMade (redeliver x s) := by
  have back := eventsWellMade_withEq h (wellMade_giveBack h.1 made)
  unfold redeliver
  dsimp only
  split
  · exact eventsWellMade_entryFreed back
  · exact back

theorem eventsWellMade_expireHeld {held : List Held} {s : State} (h : EventsWellMade s) (made : ∀ x ∈ held, x.event.kind.wellMade) :
    EventsWellMade (held.foldl expireHeld s) := by
  induction held generalizing s with
  | nil => exact h
  | cons x held ih =>
    refine ih ?_ fun y hy => made y (by simp [hy])
    unfold expireHeld
    split
    · exact eventsWellMade_redeliver h (made x (by simp))
    · exact h

theorem eventsWellMade_set {s : State} (h : EventsWellMade s) {i : SlotNo} {sl : Slot} (owed : sl.resumable) :
    EventsWellMade (s.withSlots (s.slots.set i sl)) := by
  refine ⟨h.1, fun j => ?_⟩
  rw [State.withSlots_slots, Table.get_set]
  split
  · exact owed
  · exact h.2 j

theorem eventsWellMade_commitGroups {group : SlotNo → List Notice} (proper : ∀ i sl, ProperGroup sl (group i))
    (made : ∀ i s sl, ∀ n ∈ group i, (noticeEvent s sl n).1.wellMade) (l : List SlotNo) {s : State} (h : EventsWellMade s) :
    EventsWellMade (l.foldl (fun s i => freshGroup i (group i) s) s) := by
  induction l generalizing s with
  | nil => exact h
  | cons i l ih => exact ih (eventsWellMade_freshGroup h (proper i _) (made i s _))

theorem commitSlot_same (active : Table ActiveRec 64) (changed : ZoneSet) (sl : Slot) :
    (commitSlot active changed sl).phase = sl.phase ∧ (commitSlot active changed sl).id = sl.id ∧
    (commitSlot active changed sl).cls = sl.cls ∧ (commitSlot active changed sl).lastFix = sl.lastFix ∧
    (commitSlot active changed sl).toldSet = sl.toldSet ∧ (commitSlot active changed sl).toldQuiet = sl.toldQuiet ∧
    (commitSlot active changed sl).stale = sl.stale ∧ (commitSlot active changed sl).dirty = sl.dirty ∧
    (commitSlot active changed sl).cause = sl.cause ∧ (commitSlot active changed sl).quietTimer = sl.quietTimer ∧
    (commitSlot active changed sl).retireTimer = sl.retireTimer := by
  unfold commitSlot
  split <;> simp

theorem eventsWellMade_commit {s : State} (h : EventsWellMade s) : EventsWellMade (applyCommit s) := by
  rw [applyCommit_planTaken]
  refine eventsWellMade_commitGroups (fun i sl => properGroup_forced sl _ _ _) (fun i t sl n hn => wellMade_forced t sl hn) _ ⟨h.1, fun i => ?_⟩
  rw [State.withSlots_slots, Table.get_map]
  obtain ⟨phase, -, -, lastFix, -, toldQuiet, -⟩ := commitSlot_same (planTaken s).zs.active s.zs.changedSet ((planTaken s).slots.get i)
  rw [phase, lastFix, toldQuiet]
  exact h.2 i

theorem eventsWellMade_reset {t : State} (queue : t.eq = EventQueue.reset) (slots : ∀ i, t.slots.get i = Slot.empty) : EventsWellMade t := by
  refine ⟨?_, fun i => ?_⟩
  · rw [queue]
    exact fun e he => nomatch he
  · rw [slots]
    exact fun h => nomatch h

theorem finishDeferred_slots (d : DeferredSlot) (r : Result) (b : List Byte) (s : State) : (finishDeferred d r b s).slots = s.slots := by
  rcases finishDeferred_cases d r b s with ⟨-, e⟩ | ⟨tag, -, ⟨-, e⟩ | ⟨-, e⟩⟩ <;> rw [e] <;> rfl

theorem replyDeparts_slots (s : State) : (replyDeparts s).slots = s.slots := by
  unfold replyDeparts
  split
  · rfl
  · unfold releaseHeldReply
    split
    · rfl
    · split <;> rfl

/-- What leaves the Event Queue and the slots alone keeps the events well made. -/
theorem eventsWellMade_same {s t : State} (h : EventsWellMade s) (queue : t.eq = s.eq) (slots : t.slots = s.slots) : EventsWellMade t := by
  unfold EventsWellMade
  rw [queue, slots]
  exact h

theorem eventsWellMade_move {ok : Prop} (s t : State) (h : EventsWellMade s) (m : Move ok s t) : EventsWellMade t := by
  cases m with
  | pinReset hrate frate => exact eventsWellMade_reset rfl fun i => Table.get_fill _ i
  | restart => exact eventsWellMade_reset rfl fun i => Table.get_fill _ i
  | departs => exact eventsWellMade_same h (replyDeparts_eq s) (replyDeparts_slots s)
  | commit closed => exact eventsWellMade_commit h
  | newObject i id cls free unknown given => exact eventsWellMade_set h fun _ told => nomatch told
  | stale i held => exact eventsWellMade_set h (h.2 i)
  | free i => exact eventsWellMade_set h fun tracked => nomatch tracked
  | reconcile => exact eventsWellMade_reconcile h
  | retire i cause some_cause phase =>
    refine eventsWellMade_freshGroup (s := s.withSlots _) (eventsWellMade_set h fun tracked => nomatch tracked) ?_ fun n hn => ?_
    · exact properGroup_retire (by simp) _ _
    · exact wellMade_retire _ _ hn
  | quiet i phase =>
    refine eventsWellMade_freshGroup (s := s.withSlots _) (eventsWellMade_set h fun tracked => nomatch tracked) ?_ fun n hn => ?_
    · exact properGroup_quiet (by simp [quietSlot]) _ _
    · exact wellMade_quiet _ _ hn
  | write c i f holds =>
    refine eventsWellMade_freshGroup (s := s.withSlots _) (eventsWellMade_set h fun _ _ => rfl) (properGroup_completion _ _ _ _) fun n hn => ?_
    exact wellMade_completion _ (by simp [completedSlot]) hn
  | take e rest keepArmed room first =>
    refine eventsWellMade_withEq h fun x hx => h.1 x ?_
    rcases List.mem_append.1 hx with hx | hx
    · exact List.mem_append_left _ (by rw [first]; simp only [EventQueue.take] at hx; simp [hx])
    · simp only [EventQueue.take, List.map_append, List.map_cons, List.map_nil, List.mem_append, List.mem_singleton] at hx
      rcases hx with hx | rfl
      · exact List.mem_append_right _ hx
      · exact List.mem_append_left _ (by simp [first])
  | release seq =>
    exact eventsWellMade_entryFreed (eventsWellMade_withEq h fun e he => h.1 e (((List.eraseP_sublist.map _).append_left _).subset he))
  | releaseLate seq =>
    exact eventsWellMade_entryFreed (eventsWellMade_withEq h fun e he => h.1 e ((List.eraseP_sublist.append_right _).subset he))
  | redeliver x held => exact eventsWellMade_redeliver h (h.1 _ (List.mem_append_right _ (List.mem_map_of_mem held)))
  | expireHeld => exact eventsWellMade_expireHeld h fun x hx => h.1 _ (List.mem_append_right _ (List.mem_map_of_mem hx))
  | report k id => exact eventsWellMade_withEq h (wellMade_report h.1 _ _ _)
  | refuseHostFix tag f r idle waits =>
    exact eventsWellMade_same (s := s.withHlc _) h (finishDeferred_eq .fix r [] (s.withHlc _)) (finishDeferred_slots .fix r [] (s.withHlc _))
  | endHostFix r body busy => exact eventsWellMade_same h (finishDeferred_eq .fix r body s) (finishDeferred_slots .fix r body s)
  | endQuery r body busy => exact eventsWellMade_same h (finishDeferred_eq .query r body s) (finishDeferred_slots .query r body s)
  | _ => exact h

theorem eventsWellMade_count {s : State} (h : EventsWellMade s) : EventsWellMade (countMillisecond s) := by
  refine ⟨fun e he => h.1 e ?_, fun i => ?_⟩
  · simpa [EventQueue.queued, countMillisecond, Function.comp_def] using he
  · simpa [countMillisecond, Slot.tick] using h.2 i

/-- A millisecond keeps what its counting and the moves keep, and what does not see the pace index (R1). -/
theorem millisecond_keeps {P : State → Prop} {s : State} (move : ∀ s t, P s → Move False s t → P t)
    (pace : ∀ u n, P u → P (u.withPaceIndex n)) (count : P (countMillisecond s)) : P (millisecond s) := by
  obtain ⟨u, n, moves, e⟩ := millisecond_moves (ok := False) s
  rw [e]
  exact pace u n (moves.keeps move count)

/-- Settles O59: every group the part forms is of events with the parts of their kinds, and a slot owes a RESUMED only after a fix. -/
theorem stepsKeepTheEventsWellMade : Obligations.StepsKeepTheEventsWellMade := fun _ _ made =>
  step_keeps (ok := False) (P := EventsWellMade) (by simp) (by simp) eventsWellMade_move (fun _ h => h)
    (fun h => millisecond_keeps eventsWellMade_move (fun _ _ h => h) (eventsWellMade_count h)) made

end Sys2Proof.Machine
end

section
/-! SUPPORT. Every step keeps the run counters and inside bits in obedience to the active records (R51, R62, R65, R66, R85). -/

namespace Sys2Proof.Machine

set_option Elab.async false

/-! ### One zone of one object -/

/-- With no count begun, an inside bit obeys any record that is LIVE with legal attributes (R51). -/
theorem countObeys_zero {g : Geometry} {a : Attrs} {st : BitVec 16} (legal : a.legal = true) (inside : Bool) :
    countObeys inside 0 (.live g a st) := by
  obtain ⟨enter, exit⟩ := a.legal_iff.1 legal
  refine ⟨by omega, ?_⟩
  have enter : a.enterCount.toNat ≠ 0 := fun zero => enter (BitVec.eq_of_toNat_eq zero)
  have exit : a.exitCount.toNat ≠ 0 := fun zero => exit (BitVec.eq_of_toNat_eq zero)
  cases inside <;> simp <;> omega

/-- Outside and with no count begun, a zone obeys any legal record. -/
theorem countObeys_outside {r : ActiveRec} (legal : ∀ g a st, r = .live g a st → a.legal = true) : countObeys false 0 r := by
  cases r with
  | absent st p => exact ⟨rfl, rfl⟩
  | live g a st => exact countObeys_zero (legal g a st rfl) false

theorem countObeys_live {inside : Bool} {run : Nat} {g : Geometry} {a : Attrs} {st : BitVec 16} :
    countObeys inside run (.live g a st) ↔ run ≤ 14 ∧ run < (if inside then a.exitCount.toNat else a.enterCount.toNat) := Iff.rfl

/-- Of a record only whether it is LIVE and its two counts matter. -/
theorem countObeys_of_counts {inside : Bool} {run : Nat} {g g' : Geometry} {a a' : Attrs} {st st' : BitVec 16}
    (counts : a'.enterCount = a.enterCount ∧ a'.exitCount = a.exitCount) (h : countObeys inside run (.live g a st)) :
    countObeys inside run (.live g' a' st') := by
  rw [countObeys_live] at *
  rw [counts.1, counts.2]
  exact h

/-- The dwell filter keeps inside bit and counter in obedience (R85). -/
theorem countObeys_dwell {inside r : Bool} {run : Nat} {g : Geometry} {a : Attrs} {st : BitVec 16} (legal : a.legal = true) :
    countObeys (dwell inside r run a.enterCount.toNat a.exitCount.toNat).1 (dwell inside r run a.enterCount.toNat a.exitCount.toNat).2
      (.live g a st) := by
  unfold dwell
  by_cases same : inside = r
  · rw [if_pos same]
    exact countObeys_zero legal _
  rw [if_neg same]
  by_cases reached : (if inside then a.exitCount.toNat else a.enterCount.toNat) ≤ run + 1
  · rw [if_pos reached]
    exact countObeys_zero legal _
  · rw [if_neg reached, countObeys_live]
    have enter : a.enterCount.toNat < 16 := a.enterCount.isLt
    have exit : a.exitCount.toNat < 16 := a.exitCount.isLt
    refine ⟨?_, Nat.lt_of_not_le reached⟩
    cases inside <;> simp at reached ⊢ <;> omega

/-! ### One object -/

/-- An object obeys the plan: its inside bits and counters do, and a RETIRING one is in no zone (R51, R62). -/
def Slot.obeys (active : Table ActiveRec 64) (sl : Slot) : Prop :=
  sl.phase ≠ .free → (sl.phase = .retiring → sl.inside = 0) ∧ ∀ z, countObeys (inSet sl.inside z) (sl.run.get z) (active.get z)

theorem Slot.Reported.obeys {active : Table ActiveRec 64} {sl sl' : Slot} (h : sl.Reported sl') (k : sl.obeys active) : sl'.obeys active := by
  rcases h with ⟨-, free⟩ | ⟨told, quiet, dirty, rfl, -⟩
  · exact fun other => absurd free other
  · exact k

theorem obeys_empty (active : Table ActiveRec 64) : Slot.empty.obeys active :=
  fun other => absurd rfl other

/-- An object that is in no zone, with no count begun, obeys a legal plan. -/
theorem obeys_nowhere {active : Table ActiveRec 64} (legal : ∀ z g a st, active.get z = .live g a st → a.legal = true) {sl : Slot}
    (inside : sl.inside = 0) (run : sl.run = Table.fill 64 0) : sl.obeys active := by
  intro _
  refine ⟨fun _ => inside, fun z => ?_⟩
  rw [inside, run, Table.get_fill, inSet_empty]
  exact countObeys_outside (legal z)

theorem obeys_quiet {active : Table ActiveRec 64} (legal : ∀ z g a st, active.get z = .live g a st → a.legal = true) {sl : Slot}
    (tracked : sl.phase = .tracked) (h : sl.obeys active) (retireTime : Nat) : (quietSlot active retireTime sl).obeys active := by
  intro _
  refine ⟨(nomatch ·), fun z => ?_⟩
  simp only [quietSlot, clearRuns, Table.get_ofFn, inSet_minus]
  cases drop : inSet (dropZones active) z with
  | true => simpa using countObeys_outside (legal z)
  | false => simpa using (h (by simp [tracked])).2 z

theorem obeys_completed {active : Table ActiveRec 64} (legal : ∀ z g a st, active.get z = .live g a st → a.legal = true) {sl : Slot}
    (held : sl.phase ≠ .free) (h : sl.obeys active) (c : Context) (f : Fix) (quietTime : Nat) :
    (completedSlot active c f quietTime sl).obeys active := by
  intro _
  refine ⟨(nomatch ·), fun z => ?_⟩
  simp only [completedSlot, dwellInside, inSet_zonesWhere, Table.get_ofFn, dwellZone]
  split
  · exact (h held).2 z
  · cases record : active.get z with
    | absent st p =>
      have := (h held).2 z
      rwa [record] at this
    | live g a st => exact countObeys_dwell (legal z g a st record)

/-! ### A commit -/

/-- Attributes that differ in their priority alone have the same counts (R37). -/
theorem counts_of_not_differs {a b : Attrs} (h : a.differs b = false) : b.enterCount = a.enterCount ∧ b.exitCount = a.exitCount := by
  have same : ({ a with priority := b.priority } : Attrs) = b := by simpa [Attrs.differs] using h
  rw [← same]
  exact ⟨rfl, rfl⟩

@[simp] theorem inSet_zero (z : ZoneId) : inSet 0#64 z = false :=
  inSet_empty z

theorem inSet_lostZones (active : Table ActiveRec 64) (changed : ZoneSet) (sl : Slot) (z : ZoneId) :
    inSet (lostZones active changed sl) z =
      (decide (sl.phase = .tracked ∨ sl.phase = .quiet) && (inSet changed z && inSet sl.inside z && forcedOut sl.cls (active.get z))) := by
  unfold lostZones
  split <;> rename_i h <;> simp [h]

@[simp] theorem inSet_changedSet (zs : ZoneStore) (z : ZoneId) :
    inSet zs.changedSet z = changedBy (zs.active.get z) (zs.draft.get z) :=
  inSet_zonesWhere _ z

@[simp] theorem commit_active_get (zs : ZoneStore) (busy : Bool) (z : ZoneId) :
    (zs.commit busy).active.get z = committed (nextGeneration zs.generation) (zs.active.get z) (zs.draft.get z) :=
  Table.get_ofFn _ z

/-- A record no commit changes keeps its counts, or stays ABSENT (R37). -/
theorem countObeys_unchanged {g : BitVec 16} {r : ActiveRec} {e : DraftEntry} (same : changedBy r e = false) {inside : Bool} {run : Nat}
    (h : countObeys inside run r) : countObeys inside run (committed g r e) := by
  cases e with
  | inherit => exact h
  | opened rule a n chain => exact h
  | closed geo a => cases same
  | deleted => cases same
  | amended a =>
    cases r with
    | absent st p => exact h
    | live geo old st => exact countObeys_of_counts (counts_of_not_differs same) h

/-- A changed record is LIVE with the attributes of its entry, or its entry deletes it (R36, R37). -/
theorem committed_changed {g : BitVec 16} {r : ActiveRec} {e : DraftEntry} (changed : changedBy r e = true) :
    (∃ geo a st, committed g r e = .live geo a st ∧ e.attrs? = some a) ∨ committed g r e = .absent g r.priority := by
  cases e with
  | inherit => cases changed
  | opened rule a n chain => cases changed
  | closed geo a => exact .inl ⟨geo, a, g, rfl, rfl⟩
  | deleted => exact .inr rfl
  | amended a =>
    cases r with
    | absent st p => cases changed
    | live geo old st => exact .inl ⟨geo, a, _, rfl, rfl⟩

/-- An object keeps obeying the plan over a commit: in a changed zone no count is begun, and it is not inside one that is now ABSENT (R65,
R66). -/
theorem obeys_committed {zs : ZoneStore} (drafted : ∀ z a, (zs.draft.get z).attrs? = some a → a.legal = true) (busy : Bool) {sl : Slot}
    (h : sl.obeys zs.active) : (commitSlot (zs.commit busy).active zs.changedSet sl).obeys (zs.commit busy).active := by
  unfold commitSlot
  split
  · rename_i free
    exact fun other => absurd free other
  rename_i held
  obtain ⟨nowhere, obeys⟩ := h held
  intro _
  refine ⟨fun retiring => ?_, fun z => ?_⟩
  · simp only [nowhere retiring]
    exact BitVec.zero_and
  simp only [clearRuns, Table.get_ofFn, inSet_minus, inSet_lostZones, inSet_changedSet, commit_active_get]
  cases changed : changedBy (zs.active.get z) (zs.draft.get z) with
  | false => simpa using countObeys_unchanged changed (obeys z)
  | true =>
    rcases committed_changed (g := nextGeneration zs.generation) changed with ⟨geo, a, st, live, attrs⟩ | absent
    · rw [live]
      exact countObeys_zero (drafted z a attrs) _
    · rw [absent]
      refine ⟨rfl, ?_⟩
      by_cases staying : sl.phase = .tracked ∨ sl.phase = .quiet
      · cases inSet sl.inside z <;> simp [staying, forcedOut]
      · have retiring : sl.phase = .retiring := by
          by_contra other
          exact staying (tracked_or_quiet held other)
        simp [nowhere retiring]

/-! ### Every move, every millisecond -/

/-- The active attributes are legal, and so are the drafted ones (R27). -/
def AttrsLegal (zs : ZoneStore) : Prop :=
  (∀ z g a st, zs.active.get z = .live g a st → a.legal = true) ∧ ∀ z a, (zs.draft.get z).attrs? = some a → a.legal = true

theorem countersObey_iff (s : State) : CountersObey s ↔ AttrsLegal s.zs ∧ ∀ i, (s.slots.get i).obeys s.zs.active :=
  and_assoc.symm

theorem attrsLegal_committed {zs : ZoneStore} (h : AttrsLegal zs) (busy : Bool) : AttrsLegal (zs.commit busy) := by
  refine ⟨fun z g a st record => ?_, fun z a attrs => ?_⟩
  · rw [commit_active_get] at record
    cases entry : zs.draft.get z with
    | inherit => rw [entry] at record; exact h.1 z g a st record
    | opened rule b n chain => rw [entry] at record; exact h.1 z g a st record
    | closed geo b => rw [entry] at record; cases record; exact h.2 z _ (by rw [entry]; rfl)
    | deleted => rw [entry] at record; cases record
    | amended b =>
      rw [entry] at record
      cases old : zs.active.get z with
      | absent st p => rw [old] at record; cases record
      | live geo c st => rw [old] at record; cases record; exact h.2 z _ (by rw [entry]; rfl)
  · have inherit : (zs.commit busy).draft.get z = .inherit := Table.get_fill _ z
    rw [inherit] at attrs
    cases attrs

/-- No drafting request writes an active record. -/
theorem StoreMove.active {zs zs' : ZoneStore} (m : StoreMove zs zs') : zs'.active = zs.active := by
  cases m <;> rfl

theorem attrsLegal_set {zs : ZoneStore} (h : AttrsLegal zs) {z : ZoneId} {e : DraftEntry} (new : ∀ a, e.attrs? = some a → a.legal = true)
    (y : ZoneId) (a : Attrs) (attrs : ((zs.draft.set z e).get y).attrs? = some a) : a.legal = true := by
  rw [Table.get_set] at attrs
  split at attrs
  · exact new a attrs
  · exact h.2 y a attrs

theorem DraftEntry.legal.attrs {pool : Table Block 512} {r : ActiveRec} {e : DraftEntry} (h : e.legal pool r) {a : Attrs}
    (attrs : e.attrs? = some a) : a.legal = true := by
  cases e <;> cases attrs
  · exact h.1
  · exact h.2
  · exact h.1

theorem attrsLegal_store {zs zs' : ZoneStore} (h : AttrsLegal zs) (m : StoreMove zs zs') : AttrsLegal zs' := by
  refine ⟨by rw [m.active]; exact h.1, ?_⟩
  cases m with
  | same => exact h.2
  | replace z e chainless legal => exact attrsLegal_set h fun a attrs => (legal zs.pool).attrs attrs
  | set z e chain attrs legal => exact attrsLegal_set h fun a new => (attrs a new).elim id (h.2 z a)
  | append z rule a n need chain vs entry total blocks space =>
    exact attrsLegal_set h fun b new => by cases new; exact h.2 z _ (by rw [entry]; rfl)
  | discard =>
    intro z a attrs
    rw [Table.get_fill] at attrs
    cases attrs

theorem countersObey_reported {s t : State} (h : CountersObey s) (zs : t.zs = s.zs) (slots : ∀ j, (s.slots.get j).Reported (t.slots.get j)) :
    CountersObey t := by
  rw [countersObey_iff] at *
  rw [zs]
  exact ⟨h.1, fun j => (slots j).obeys (h.2 j)⟩

theorem countersObey_set {s : State} (h : CountersObey s) {i : SlotNo} {sl : Slot} (obeys : sl.obeys s.zs.active) :
    CountersObey (s.withSlots (s.slots.set i sl)) := by
  rw [countersObey_iff] at *
  refine ⟨h.1, fun j => ?_⟩
  rw [State.withSlots_slots, Table.get_set]
  split
  · exact obeys
  · exact h.2 j

theorem countersObey_freshGroup {s : State} (h : CountersObey s) {i : SlotNo} {group : List Notice}
    (proper : ProperGroup (s.slots.get i) group) : CountersObey (freshGroup i group s) :=
  countersObey_reported h (freshGroup_same i group s).zs (freshGroup_reported proper)

theorem countersObey_entryFreed (s : State) (h : CountersObey s) : CountersObey (entryFreed s) :=
  countersObey_reported h (entryFreed_same s).zs (entryFreed_reported s)

theorem countersObey_commit {s : State} (h : CountersObey s) : CountersObey (applyCommit s) := by
  rw [countersObey_iff] at *
  rw [(applyCommit_same s).zs]
  exact ⟨attrsLegal_committed h.1 _, fun j => (applyCommit_reported s j).obeys (obeys_committed h.1.2 _ (h.2 j))⟩

theorem countersObey_reset {t : State} (zs : t.zs = ZoneStore.reset) (slots : ∀ i, t.slots.get i = Slot.empty) : CountersObey t := by
  have active (z : ZoneId) : ZoneStore.reset.active.get z = .absent 0 0 := Table.get_fill _ z
  have draft (z : ZoneId) : ZoneStore.reset.draft.get z = .inherit := Table.get_fill _ z
  rw [countersObey_iff, zs]
  refine ⟨⟨fun z g a st record => ?_, fun z a attrs => ?_⟩, fun i => ?_⟩
  · rw [active] at record
    cases record
  · rw [draft] at attrs
    cases attrs
  · rw [slots]
    exact obeys_empty _

/-- What leaves the slots and the Zone Store's records alone keeps the counters in obedience. -/
theorem countersObey_same {s t : State} (h : CountersObey s) (active : t.zs.active = s.zs.active) (draft : t.zs.draft = s.zs.draft)
    (slots : t.slots = s.slots) : CountersObey t := by
  unfold CountersObey
  rw [active, draft, slots]
  exact h

theorem finishDeferred_zs (d : DeferredSlot) (r : Result) (b : List Byte) (s : State) : (finishDeferred d r b s).zs = s.zs := by
  rcases finishDeferred_cases d r b s with ⟨-, e⟩ | ⟨tag, -, ⟨-, e⟩ | ⟨-, e⟩⟩ <;> rw [e] <;> rfl

theorem replyDeparts_zs (s : State) : (replyDeparts s).zs = s.zs := by
  unfold replyDeparts
  split
  · rfl
  · unfold releaseHeldReply
    split
    · rfl
    · split <;> rfl

/-- The end of a deferred request leaves the records and the slots alone (R89). -/
theorem countersObey_ends {s : State} (h : CountersObey s) (d : DeferredSlot) (r : Result) (b : List Byte) :
    CountersObey (becomeIdle (finishDeferred d r b s)) := by
  obtain ⟨-, -, -, -, active, draft, -, slots, -⟩ := becomeIdle_spec (finishDeferred d r b s)
  rw [finishDeferred_zs] at active draft
  rw [finishDeferred_slots] at slots
  exact countersObey_same h active draft slots

theorem countersObey_move {ok : Prop} (s t : State) (h : CountersObey s) (m : Move ok s t) : CountersObey t := by
  have legal : ∀ z g a st, s.zs.active.get z = .live g a st → a.legal = true := h.1
  have obeys : ∀ i, (s.slots.get i).obeys s.zs.active := ((countersObey_iff s).1 h).2
  cases m with
  | pinReset hrate frate => exact countersObey_reset rfl fun i => Table.get_fill _ i
  | restart => exact countersObey_reset rfl fun i => Table.get_fill _ i
  | departs => exact countersObey_same h (by rw [replyDeparts_zs]) (by rw [replyDeparts_zs]) (replyDeparts_slots s)
  | store zs move =>
    rw [countersObey_iff] at *
    refine ⟨attrsLegal_store h.1 move, fun i => ?_⟩
    rw [State.withZs_zs, move.active]
    exact h.2 i
  | commit closed => exact countersObey_commit h
  | newObject i id cls free unknown given => exact countersObey_set h (obeys_nowhere legal rfl rfl)
  | stale i held => exact countersObey_set h (obeys i)
  | free i => exact countersObey_set h (obeys_empty _)
  | reconcile => exact countersObey_reported h (reconcile_same s).zs (reconcile_reported s)
  | retire i cause some_cause phase =>
    refine countersObey_freshGroup (s := s.withSlots _) (countersObey_set h (obeys_nowhere legal rfl rfl)) ?_
    exact properGroup_retire (by simp) _ _
  | quiet i phase =>
    refine countersObey_freshGroup (s := s.withSlots _) (countersObey_set h (obeys_quiet legal phase (obeys i) _)) ?_
    exact properGroup_quiet (by simp [quietSlot]) _ _
  | write c i f holds =>
    have held : (s.slots.get i).phase ≠ .free := by
      intro free
      simp [stillHolds, free] at holds
    exact countersObey_freshGroup (s := s.withSlots _) (countersObey_set h (obeys_completed legal held (obeys i) c f _))
      (properGroup_completion _ _ _ _)
  | release seq => exact countersObey_entryFreed (s.withEq _) h
  | releaseLate seq => exact countersObey_entryFreed (s.withEq _) h
  | redeliver x held => exact countersObey_reported h (redeliver_same x s).zs (redeliver_reported x s)
  | expireHeld => exact countersObey_reported h (expireHeld_same _ s).zs (expireHeld_reported _ s)
  | refuseHostFix tag f r idle waits => exact countersObey_ends (s := s.withHlc _) (by exact h) .fix r []
  | endHostFix r body busy => exact countersObey_ends h .fix r body
  | endQuery r body busy => exact countersObey_ends h .query r body
  | _ => exact h

theorem countersObey_count {s : State} (h : CountersObey s) : CountersObey (countMillisecond s) := by
  rw [countersObey_iff] at *
  refine ⟨h.1, fun i => ?_⟩
  have ticked : (countMillisecond s).slots.get i = (s.slots.get i).tick := Table.get_map _ _ i
  rw [ticked]
  exact h.2 i

/-- Settles O56: a move that touches an inside bit, a counter or a record leaves each object in obedience to the plan. -/
theorem stepsKeepTheCounters : Obligations.StepsKeepTheCounters := fun _ _ obey =>
  step_keeps (ok := False) (P := CountersObey) (by simp) (by simp) countersObey_move (fun _ h => h)
    (fun h => millisecond_keeps countersObey_move (fun _ _ h => h) (countersObey_count h)) obey

end Sys2Proof.Machine
end

section
/-! SUPPORT. Every step keeps the vertex blocks accounted for, the records and drafts legal, and an evaluation in flight in agreement with the
plan (R18, R21, R23, R25, R81). -/

namespace Sys2Proof.Machine

set_option Elab.async false

/-! ### How often a block stands in a place (R23) -/

/-- How often block `b` stands in chains numbered by zone. -/
def chainCopies (b : BlockNo) (chain : ZoneId → List BlockNo) : Nat :=
  ∑ z, (chain z).count b

theorem count_chains (b : BlockNo) (chain : ZoneId → List BlockNo) : ((List.finRange 64).flatMap chain).count b = chainCopies b chain := by
  rw [List.count_flatMap, chainCopies, Fin.sum_univ_def]
  rfl

/-- With one chain replaced, the copies in the old chain go and those in the new one come. -/
theorem chainCopies_set {b : BlockNo} {chain chain' : ZoneId → List BlockNo} (z : ZoneId) (others : ∀ y, y ≠ z → chain' y = chain y) :
    chainCopies b chain' + (chain z).count b = chainCopies b chain + (chain' z).count b := by
  unfold chainCopies
  rw [← Finset.add_sum_erase _ (fun y => (chain' y).count b) (Finset.mem_univ z),
    ← Finset.add_sum_erase _ (fun y => (chain y).count b) (Finset.mem_univ z),
    Finset.sum_congr rfl fun y hy => by rw [others y (Finset.ne_of_mem_erase hy)]]
  omega

theorem count_le_chainCopies (b : BlockNo) (chain : ZoneId → List BlockNo) (z : ZoneId) : (chain z).count b ≤ chainCopies b chain :=
  Finset.single_le_sum (f := fun y => (chain y).count b) (fun _ _ => Nat.zero_le _) (Finset.mem_univ z)

/-- A block that stands in the chains of two zones stands there twice. -/
theorem count_add_le_chainCopies (b : BlockNo) (chain : ZoneId → List BlockNo) {y z : ZoneId} (other : y ≠ z) :
    (chain y).count b + (chain z).count b ≤ chainCopies b chain := by
  unfold chainCopies
  rw [← Finset.add_sum_erase _ _ (Finset.mem_univ z), Nat.add_comm]
  exact Nat.add_le_add_left
    (Finset.single_le_sum (f := fun y => (chain y).count b) (fun _ _ => Nat.zero_le _) (Finset.mem_erase.2 ⟨other, Finset.mem_univ y⟩)) _

/-- How often block `b` stands in the four places of a block together. -/
def ZoneStore.copies (zs : ZoneStore) (b : BlockNo) : Nat :=
  zs.freeList.count b + chainCopies b (fun z => (zs.active.get z).chain) + chainCopies b (fun z => (zs.draft.get z).chain) +
    zs.retiring.count b

theorem places_perm_iff (zs : ZoneStore) : zs.places.Perm (List.finRange 512) ↔ ∀ b, zs.copies b = 1 := by
  have count (b : BlockNo) : zs.places.count b = zs.copies b := by
    simp only [ZoneStore.places, ZoneStore.activeChains, ZoneStore.draftChains, List.count_append, count_chains, ZoneStore.copies]
  rw [List.perm_iff_count]
  refine forall_congr' fun b => ?_
  rw [count, List.count_eq_one_of_mem (List.nodup_finRange 512) (List.mem_finRange b)]

/-! ### What is stored in the blocks of a chain -/

/-- A vertex written in a chain leaves every block outside it (R31). -/
theorem writeVertices_other (pool : Table Block 512) (chain : List BlockNo) (i : Nat) (vs : List Point) {b : BlockNo} (other : b ∉ chain) :
    (writeVertices pool chain i vs).get b = pool.get b := by
  induction vs generalizing pool i with
  | nil => rfl
  | cons v vs ih =>
    rw [writeVertices, ih]
    unfold writeVertex
    split
    · rename_i c found
      have : c ≠ b := fun same => other (same ▸ List.mem_of_getElem? found)
      exact Table.get_modify_ne _ _ this
    · rfl

theorem vertexAt_congr {pool pool' : Table Block 512} {chain : List BlockNo} (same : ∀ b ∈ chain, pool'.get b = pool.get b) (i : Nat) :
    vertexAt pool' chain i = vertexAt pool chain i := by
  unfold vertexAt
  split
  · rename_i found
    rw [same _ (List.mem_of_getElem? found)]
  · rfl

theorem verticesOf_congr {pool pool' : Table Block 512} {chain : List BlockNo} (same : ∀ b ∈ chain, pool'.get b = pool.get b) (n : Nat) :
    verticesOf pool' chain n = verticesOf pool chain n :=
  List.map_congr_left fun i _ => vertexAt_congr same i

theorem geometry_legal_congr {pool pool' : Table Block 512} {g : Geometry} (same : ∀ b ∈ g.chain, pool'.get b = pool.get b)
    (h : g.legal pool) : g.legal pool' := by
  cases g with
  | box b => exact h
  | polygon rule n chain bounds =>
    have vertices : verticesOf pool' chain n = verticesOf pool chain n := verticesOf_congr same n
    simp only [Geometry.legal, vertices] at h ⊢
    exact h

theorem record_legal_congr {pool pool' : Table Block 512} {r : ActiveRec} (same : ∀ b ∈ r.chain, pool'.get b = pool.get b)
    (h : r.legal pool) : r.legal pool' := by
  cases r with
  | absent st p => trivial
  | live g a st => exact ⟨geometry_legal_congr same h.1, h.2⟩

theorem entry_legal_congr {pool pool' : Table Block 512} {r : ActiveRec} {e : DraftEntry}
    (same : ∀ b ∈ e.chain, pool'.get b = pool.get b) (h : e.legal pool r) : e.legal pool' r := by
  cases e with
  | closed g a => exact ⟨geometry_legal_congr same h.1, h.2⟩
  | _ => exact h

theorem rawResult_congr {pool pool' : Table Block 512} {r : ActiveRec} (same : ∀ b ∈ r.chain, pool'.get b = pool.get b) (x y : Coord)
    (cls : BitVec 3) : rawResult pool' r x y cls = rawResult pool r x y cls := by
  cases r with
  | absent st p => rfl
  | live g a st =>
    cases g with
    | box b => rfl
    | polygon rule n chain bounds =>
      have vertices : verticesOf pool' chain n = verticesOf pool chain n := verticesOf_congr same n
      simp only [rawResult, geometricResult, vertices]

/-! ### The store and the evaluation together -/

/-- The store is sound beside an evaluation in flight, or none (R18, R21, R23, R25, R81). -/
structure StoreAgrees (zs : ZoneStore) (context : Option Context) : Prop where
  copies : ∀ b, zs.copies b = 1
  idle : context = none → zs.retiring = []
  active : ∀ z, (zs.active.get z).legal zs.pool
  draft : ∀ z, (zs.draft.get z).legal zs.pool (zs.active.get z)
  walk : ∀ c, context = some c → c.sound zs

theorem storeAgrees_iff (s : State) : StoreSound s ∧ WalkSound s ↔ StoreAgrees s.zs s.ev.context := by
  constructor
  · rintro ⟨⟨⟨places, idle⟩, legal⟩, -, walk⟩
    exact ⟨(places_perm_iff _).1 places, idle, fun z => (legal z).1, fun z => (legal z).2, walk⟩
  · rintro ⟨copies, idle, active, draft, walk⟩
    have accounted : BlocksAccounted s := ⟨(places_perm_iff _).2 copies, idle⟩
    exact ⟨⟨accounted, fun z => ⟨active z, draft z⟩⟩, accounted, walk⟩

/-- An evaluation agrees with a plan whose tests give what they gave. -/
theorem context_sound_congr {zs zs' : ZoneStore} {c : Context} (same : ∀ z, rawCell zs' c z = rawCell zs c z) (h : c.sound zs) : c.sound zs' :=
  ⟨h.1, fun z => ⟨fun passed void => (((h.2 z).1 passed void).trans (same z).symm), (h.2 z).2⟩⟩

theorem rawCell_congr {zs zs' : ZoneStore} (active : zs'.active = zs.active)
    (pool : ∀ z, ∀ b ∈ (zs.active.get z).chain, zs'.pool.get b = zs.pool.get b) (c : Context) (z : ZoneId) :
    rawCell zs' c z = rawCell zs c z := by
  simp only [rawCell, active, rawResult_congr (pool z)]

section Drafting

variable {zs : ZoneStore} {context : Option Context}

/-- A draft entry replaced in a sound store: what counts is where the blocks go and that the new entry is legal. -/
theorem StoreAgrees.setDraft (h : StoreAgrees zs context) {z : ZoneId} {e : DraftEntry} {freeList : List BlockNo}
    (blocks : ∀ b, freeList.count b + e.chain.count b = zs.freeList.count b + (zs.draft.get z).chain.count b)
    (legal : e.legal zs.pool (zs.active.get z)) :
    StoreAgrees { zs with freeList := freeList, draft := zs.draft.set z e } context := by
  refine ⟨fun b => ?_, h.idle, h.active, fun y => ?_, fun c busy => context_sound_congr (fun y => rfl) (h.walk c busy)⟩
  · have moved := chainCopies_set (b := b) (chain := fun y => (zs.draft.get y).chain) (chain' := fun y => ((zs.draft.set z e).get y).chain) z
      fun y other => by rw [Table.get_set_ne _ _ (Ne.symm other)]
    simp only [Table.get_set_self] at moved
    have one := h.copies b
    have block := blocks b
    unfold ZoneStore.copies at *
    simp only
    omega
  · show ((zs.draft.set z e).get y).legal zs.pool (zs.active.get y)
    rw [Table.get_set]
    split
    · rename_i same
      rw [← same]
      exact legal
    · exact h.draft y

/-- Blocks of a free list or of one draft chain are in no active chain, and in no other draft chain (R23). -/
theorem StoreAgrees.apart (h : StoreAgrees zs context) {z : ZoneId} {b : BlockNo} (mine : b ∈ (zs.draft.get z).chain ∨ b ∈ zs.freeList) :
    (∀ y, b ∉ (zs.active.get y).chain) ∧ ∀ y, y ≠ z → b ∉ (zs.draft.get y).chain := by
  have one := h.copies b
  unfold ZoneStore.copies at one
  have here : (zs.draft.get z).chain.count b ≤ _ := count_le_chainCopies b (fun y => (zs.draft.get y).chain) z
  constructor
  · intro y theirs
    have there : (zs.active.get y).chain.count b ≤ _ := count_le_chainCopies b (fun y => (zs.active.get y).chain) y
    rw [← List.count_pos_iff] at theirs
    rcases mine with mine | mine <;> rw [← List.count_pos_iff] at mine <;> omega
  · intro y other theirs
    have both : (zs.draft.get y).chain.count b + (zs.draft.get z).chain.count b ≤ _ := count_add_le_chainCopies b (fun y => (zs.draft.get y).chain) other
    rw [← List.count_pos_iff] at theirs
    rcases mine with mine | mine <;> rw [← List.count_pos_iff] at mine <;> omega

/-- Blocks that `n` vertices and `k` more need beside those they have (R30). -/
theorem blocksFor_add (n k : Nat) : blocksFor n + (blocksFor (n + k) - blocksFor n) = blocksFor (n + k) := by
  unfold blocksFor
  omega

/-- Vertices written in the chain of one draft entry and in free blocks are seen by no other outline (R23, R31). -/
theorem StoreAgrees.rewrite (h : StoreAgrees zs context) {z : ZoneId} {pool : Table Block 512}
    (others : ∀ b, b ∉ (zs.draft.get z).chain → b ∉ zs.freeList → pool.get b = zs.pool.get b)
    (mine : (zs.draft.get z).legal pool (zs.active.get z)) : StoreAgrees { zs with pool := pool } context := by
  have active (y : ZoneId) (b : BlockNo) (hb : b ∈ (zs.active.get y).chain) : pool.get b = zs.pool.get b :=
    others b (fun m => (h.apart (.inl m)).1 y hb) fun m => (h.apart (z := z) (.inr m)).1 y hb
  refine ⟨h.copies, h.idle, fun y => record_legal_congr (active y) (h.active y), fun y => ?_, fun c busy => ?_⟩
  · by_cases other : y = z
    · rw [other]
      exact mine
    · exact entry_legal_congr (fun b hb => others b (fun m => (h.apart (.inl m)).2 y other hb) fun m => (h.apart (z := z) (.inr m)).2 y other hb)
        (h.draft y)
  · exact context_sound_congr (rawCell_congr (zs := zs) (zs' := { zs with pool := pool }) rfl active c) (h.walk c busy)

theorem StoreAgrees.store (h : StoreAgrees zs context) {zs' : ZoneStore} (m : StoreMove zs zs') : StoreAgrees zs' context := by
  cases m with
  | same => exact h
  | replace z e chainless legal =>
    exact h.setDraft (fun b => by rw [List.count_append, chainless, List.count_nil, Nat.add_zero]) (legal _)
  | set z e chain attrs legal => exact h.setDraft (fun b => by rw [chain]) (legal (h.draft z))
  | append z rule a n need chain vs entry total blocks space =>
    have held := h.draft z
    rw [entry] at held
    obtain ⟨attrs, -, length⟩ := held
    have mine : (zs.draft.get z).chain = chain := by rw [entry]; rfl
    have written := h.rewrite (z := z) (pool := writeVertices zs.pool (chain ++ zs.freeList.take need) n vs)
      (fun b notMine notFree => writeVertices_other _ _ _ _ fun hb => (List.mem_append.1 hb).elim (fun m => notMine (mine ▸ m))
        fun m => notFree (List.mem_of_mem_take m)) (by rw [entry]; exact h.draft z |> fun d => by rw [entry] at d; exact d)
    refine written.setDraft (fun b => ?_) ⟨attrs, total, ?_⟩
    · show (zs.freeList.drop need).count b + (chain ++ zs.freeList.take need).count b = _
      have split := congrArg (List.count b) (List.take_append_drop need zs.freeList)
      rw [List.count_append] at split
      rw [List.count_append, mine]
      show _ = zs.freeList.count b + _
      omega
    · rw [List.length_append, List.length_take, Nat.min_eq_left space, length, blocks, blocksFor_add]
  | discard =>
    refine ⟨fun b => ?_, h.idle, h.active, fun z => ?_, fun c busy => context_sound_congr (fun y => rfl) (h.walk c busy)⟩
    · have one := h.copies b
      have none_left : chainCopies b (fun z => ((Table.fill 64 DraftEntry.inherit).get z).chain) = 0 := by
        simp [chainCopies, DraftEntry.chain]
      have chains : zs.draftChains.count b = chainCopies b fun z => (zs.draft.get z).chain := count_chains b _
      unfold ZoneStore.copies at *
      simp only [List.count_append, chains, none_left]
      omega
    · show ((Table.fill 64 DraftEntry.inherit).get z).legal _ _
      rw [Table.get_fill]
      trivial

end Drafting

/-! ### A commit -/

/-- At a commit each block goes where its chain goes: the chain of the record before and of the entry are those of the record after and the
departing one (R36, R38). -/
theorem count_committed (b : BlockNo) (g : BitVec 16) (r : ActiveRec) {e : DraftEntry} (closed : e.isOpen = false) :
    (committed g r e).chain.count b + (departing r e).count b = r.chain.count b + e.chain.count b := by
  cases e with
  | opened rule a n chain => cases closed
  | closed geo a => exact Nat.add_comm _ _
  | amended a => cases r <;> rfl
  | _ => simp [committed, departing, DraftEntry.chain, ActiveRec.chain]

theorem chainCopies_committed (b : BlockNo) {zs : ZoneStore} (closed : ∀ z, (zs.draft.get z).isOpen = false) (busy : Bool) :
    chainCopies b (fun z => ((zs.commit busy).active.get z).chain) + zs.departingChains.count b =
      chainCopies b (fun z => (zs.active.get z).chain) + chainCopies b fun z => (zs.draft.get z).chain := by
  have departed : zs.departingChains.count b = chainCopies b fun z => departing (zs.active.get z) (zs.draft.get z) := count_chains b _
  simp only [departed, chainCopies, ← Finset.sum_add_distrib, commit_active_get]
  exact Finset.sum_congr rfl fun z _ => count_committed b _ _ (closed z)

theorem committed_legal {pool : Table Block 512} {g : BitVec 16} {r : ActiveRec} {e : DraftEntry} (old : r.legal pool)
    (new : e.legal pool r) : (committed g r e).legal pool := by
  cases e with
  | inherit => exact old
  | opened rule a n chain => exact old
  | closed geo a => exact new
  | deleted => trivial
  | amended a =>
    cases r with
    | absent st p => trivial
    | live geo b st => exact ⟨old.1, new.1⟩

/-- A record that a commit does not change is tested as before (R37, R81). -/
theorem rawResult_committed {pool : Table Block 512} {g : BitVec 16} {r : ActiveRec} {e : DraftEntry} (same : changedBy r e = false)
    (x y : Coord) (cls : BitVec 3) : rawResult pool (committed g r e) x y cls = rawResult pool r x y cls := by
  cases e with
  | inherit => rfl
  | opened rule a n chain => rfl
  | closed geo a => cases same
  | deleted => cases same
  | amended a =>
    cases r with
    | absent st p => rfl
    | live geo old st =>
      have priority : ({ old with priority := a.priority } : Attrs) = a := by simpa [changedBy, Attrs.differs] using same
      rw [← priority]
      rfl

theorem StoreAgrees.commit {zs : ZoneStore} {ev : Evaluator} (h : StoreAgrees zs ev.context)
    (closed : ∀ z, (zs.draft.get z).isOpen = false) : StoreAgrees (zs.commit ev.context.isSome) (ev.addVoid zs.changedSet).context := by
  have inherit (z : ZoneId) : (zs.commit ev.context.isSome).draft.get z = .inherit := Table.get_fill _ z
  refine ⟨fun b => ?_, fun idle => ?_, fun z => ?_, fun z => ?_, fun c busy => ?_⟩
  · have one := h.copies b
    have moved := chainCopies_committed b closed ev.context.isSome
    have none_left : chainCopies b (fun z => ((zs.commit ev.context.isSome).draft.get z).chain) = 0 := by
      simp [chainCopies, inherit, DraftEntry.chain]
    have lists : (zs.commit ev.context.isSome).freeList.count b + (zs.commit ev.context.isSome).retiring.count b =
        zs.freeList.count b + zs.retiring.count b + zs.departingChains.count b := by
      unfold ZoneStore.commit
      dsimp only
      split <;> rw [List.count_append] <;> omega
    unfold ZoneStore.copies at *
    rw [none_left]
    omega
  · have none_busy : ev.context = none := by simpa [Evaluator.addVoid] using idle
    have kept : (zs.commit ev.context.isSome).retiring = zs.retiring := by simp [ZoneStore.commit, none_busy]
    rw [kept]
    exact h.idle none_busy
  · rw [commit_active_get]
    exact committed_legal (h.active z) (h.draft z)
  · rw [inherit]
    trivial
  · obtain ⟨old, flying, rfl⟩ : ∃ old, ev.context = some old ∧ { old with void := old.void ||| zs.changedSet } = c := by
      simpa [Evaluator.addVoid] using busy
    obtain ⟨bound, walked⟩ := h.walk old flying
    refine ⟨bound, fun z => ⟨fun passed void => ?_, (walked z).2⟩⟩
    have void : inSet old.void z = false ∧ changedBy (zs.active.get z) (zs.draft.get z) = false := by
      simpa using void
    have cell := (walked z).1 passed void.1
    simp only [rawCell, inSet_union, inSet_changedSet, void.1, void.2, commit_active_get] at cell ⊢
    rw [cell]
    have result := rawResult_committed (pool := zs.pool) (g := nextGeneration zs.generation) void.2 old.job.point.1 old.job.point.2.1
      old.job.point.2.2
    rw [← result]
    rfl

/-! ### The walk, the start and the end of an evaluation -/

@[simp] theorem walkZone_void (zs : ZoneStore) (c : Context) : (walkZone zs c).void = c.void := by
  unfold walkZone
  split <;> rfl

/-- The walk's test of a zone sees the context's void set and job alone (R80). -/
theorem rawCell_context {zs : ZoneStore} {c c' : Context} (job : c'.job = c.job) (void : c'.void = c.void) (z : ZoneId) :
    rawCell zs c' z = rawCell zs c z := by
  simp only [rawCell, job, void]

theorem walkZone_sound {zs : ZoneStore} {c : Context} (h : c.sound zs) : (walkZone zs c).sound zs := by
  by_cases going : c.walk < 64
  · obtain ⟨walk, job, void, raw⟩ := walkZone_spec zs c going
    refine ⟨by omega, fun z => ⟨fun passed free => ?_, fun ahead => ?_⟩⟩
    · rw [raw, rawCell_context job void]
      rw [void] at free
      split
      · rfl
      · exact (h.2 z).1 (by omega) free
    · rw [raw, if_neg (by omega)]
      exact (h.2 z).2 (by omega)
  · have done : walkZone zs c = c := by simp [walkZone, going]
    rw [done]
    exact h

theorem walkZones_sound {zs : ZoneStore} (n : Nat) {c : Context} (h : c.sound zs) : (walkZones zs n c).sound zs := by
  induction n generalizing c with
  | zero => exact h
  | succ n ih => exact ih (walkZone_sound h)

theorem contextStart_sound (zs : ZoneStore) (job : Job) : (Context.start job).sound zs :=
  ⟨Nat.zero_le _, fun z => ⟨fun passed => absurd passed (Nat.not_lt_zero _), fun _ => Table.get_fill _ z⟩⟩

/-- An evaluation that opens has tested nothing yet (R79, R87). -/
theorem StoreAgrees.start {zs : ZoneStore} {context : Option Context} (h : StoreAgrees zs context) (job : Job) :
    StoreAgrees zs (some (Context.start job)) :=
  ⟨h.copies, by simp, h.active, h.draft, fun c busy => by cases busy; exact contextStart_sound zs job⟩

theorem StoreAgrees.idled {zs : ZoneStore} {context : Option Context} (h : StoreAgrees zs context) : StoreAgrees zs.freeRetiring none := by
  refine ⟨fun b => ?_, fun _ => rfl, h.active, h.draft, by simp⟩
  have one := h.copies b
  unfold ZoneStore.copies at *
  simp only [ZoneStore.freeRetiring, List.count_append, List.count_nil]
  omega

theorem reset_freeList : ZoneStore.reset.freeList = List.finRange 512 := by
  unfold ZoneStore.reset
  simp only

theorem storeAgrees_reset : StoreAgrees ZoneStore.reset none := by
  have active (z : ZoneId) : ZoneStore.reset.active.get z = .absent 0 0 := Table.get_fill _ z
  have draft (z : ZoneId) : ZoneStore.reset.draft.get z = .inherit := Table.get_fill _ z
  refine ⟨fun b => ?_, fun _ => rfl, fun z => ?_, fun z => ?_, by simp⟩
  · have free : ZoneStore.reset.freeList.count b = 1 := by
      rw [reset_freeList, List.count_eq_one_of_mem (List.nodup_finRange 512) (List.mem_finRange b)]
    have retiring : ZoneStore.reset.retiring = [] := by unfold ZoneStore.reset; rfl
    simp only [ZoneStore.copies, chainCopies, active, draft, free, retiring, ActiveRec.chain, DraftEntry.chain, List.count_nil,
      Finset.sum_const_zero, Nat.add_zero]
  · rw [active]
    trivial
  · rw [draft]
    trivial

/-! ### Every move, every millisecond -/

theorem storeAgrees_same {s t : State} (h : StoreAgrees s.zs s.ev.context) (zs : t.zs = s.zs) (ev : t.ev = s.ev) :
    StoreAgrees t.zs t.ev.context := by
  rw [zs, ev]
  exact h

theorem finishDeferred_ev (d : DeferredSlot) (r : Result) (b : List Byte) (s : State) : (finishDeferred d r b s).ev = s.ev := by
  rcases finishDeferred_cases d r b s with ⟨-, e⟩ | ⟨tag, -, ⟨-, e⟩ | ⟨-, e⟩⟩ <;> rw [e] <;> rfl

theorem replyDeparts_ev (s : State) : (replyDeparts s).ev = s.ev := by
  unfold replyDeparts
  split
  · rfl
  · unfold releaseHeldReply
    split
    · rfl
    · split <;> rfl

theorem storeAgrees_idle {s : State} (h : StoreAgrees s.zs s.ev.context) : StoreAgrees (becomeIdle s).zs (becomeIdle s).ev.context :=
  h.idled

theorem storeAgrees_ends {s : State} (h : StoreAgrees s.zs s.ev.context) (d : DeferredSlot) (r : Result) (b : List Byte) :
    StoreAgrees (becomeIdle (finishDeferred d r b s)).zs (becomeIdle (finishDeferred d r b s)).ev.context :=
  storeAgrees_idle (storeAgrees_same h (finishDeferred_zs d r b s) (finishDeferred_ev d r b s))

theorem storeAgrees_reporter {s t : State} (h : StoreAgrees s.zs s.ev.context) (same : SameBesides s t) : StoreAgrees t.zs t.ev.context :=
  storeAgrees_same h same.zs same.ev

theorem storeAgrees_count {s : State} (h : StoreAgrees s.zs s.ev.context) :
    StoreAgrees (countMillisecond s).zs (countMillisecond s).ev.context :=
  storeAgrees_same h rfl rfl

theorem storeAgrees_move {ok : Prop} (s t : State) (h : StoreAgrees s.zs s.ev.context) (m : Move ok s t) :
    StoreAgrees t.zs t.ev.context := by
  cases m with
  | pinReset hrate frate => exact storeAgrees_reset
  | restart => exact storeAgrees_reset
  | departs => exact storeAgrees_same h (replyDeparts_zs s) (replyDeparts_ev s)
  | store zs move => exact h.store move
  | commit closed => exact storeAgrees_reporter (s := planTaken s) (h.commit closed) (applyCommit_same s)
  | reconcile => exact storeAgrees_reporter h (reconcile_same s)
  | retire i cause some_cause phase => exact storeAgrees_reporter h (retireObject_same i cause s)
  | quiet i phase => exact storeAgrees_reporter h (freshGroup_same _ _ _)
  | write c i f holds => exact storeAgrees_reporter h (writeCompletion_same c i f s)
  | release seq => exact storeAgrees_reporter h (entryFreed_same (s.withEq _))
  | releaseLate seq => exact storeAgrees_reporter h (entryFreed_same (s.withEq _))
  | redeliver x held => exact storeAgrees_reporter h (redeliver_same x s)
  | expireHeld => exact storeAgrees_reporter h (expireHeld_same _ s)
  | openHostFix tag f i idle waits => exact h.start _
  | openQuery tag q idle waits => exact h.start _
  | openFeedFix f i idle => exact h.start _
  | refuseHostFix tag f r idle waits => exact storeAgrees_ends (s := s.withHlc _) (by exact h) .fix r []
  | idle noHostFix noQuery => exact storeAgrees_idle h
  | endHostFix r body busy => exact storeAgrees_ends h .fix r body
  | endQuery r body busy => exact storeAgrees_ends h .query r body
  | walk n c busy =>
    refine ⟨h.copies, by simp, h.active, h.draft, fun c' busy' => ?_⟩
    cases busy'
    exact walkZones_sound n (h.walk c busy)
  | _ => exact h

/-- Settles O55: every move keeps each block in one place and an evaluation in agreement with the plan. -/
theorem stepsKeepTheStoreSound : Obligations.StepsKeepTheStoreSound := by
  intro s t store walk stepped
  have agrees := (storeAgrees_iff s).1 ⟨store, walk⟩
  exact (storeAgrees_iff t).2 (step_keeps (ok := False) (P := fun s => StoreAgrees s.zs s.ev.context) (by simp) (by simp) storeAgrees_move
    (fun _ h => h) (fun h => millisecond_keeps (P := fun s => StoreAgrees s.zs s.ev.context) storeAgrees_move (fun _ _ h => h)
      (storeAgrees_count h)) agrees stepped)

end Sys2Proof.Machine
end

section
/-! SUPPORT. Every step keeps the Object Table and the dirty list sound (R47, R49, R53, R99, R100). -/

namespace Sys2Proof.Machine

set_option Elab.async false

/-! ### The table and its dirty list -/

/-- A slot on its own, but for how far its timers have run and for its dirty mark (`Slot.sound`). -/
structure Slot.Fit (sl : Slot) : Prop where
  free : sl.phase = .free → sl = Slot.empty
  named : sl.phase ≠ .free → sl.id ≠ 0
  quietRuns : sl.quietTimer ≠ .stopped → sl.phase = .tracked
  retireRuns : sl.retireTimer ≠ .stopped → sl.phase = .quiet
  leaving : sl.phase = .retiring → sl.inside = 0 ∧ sl.cause ≠ .none
  staying : sl.phase ≠ .retiring → sl.cause = .none

/-- Both timers of the slot are within their lengths (R1). -/
def Slot.inTime (sl : Slot) : Prop :=
  sl.quietTimer.within ∧ sl.retireTimer.within

/-- A clean object has been told the truth (R99). -/
def Slot.honest (sl : Slot) : Prop :=
  sl.phase ≠ .free → sl.dirty = false → sl.toldTruth

/-- The Object Table and the dirty list, but for the slots whose expiries are still to come (`late`) and those whose groups are still to be
handed over (`owed`). -/
structure TableFit (late owed : SlotNo → Prop) (slots : Table Slot 128) (dirty : List SlotNo) : Prop where
  fit : ∀ i, (slots.get i).Fit
  unique : ∀ i j, (slots.get i).phase ≠ .free → (slots.get j).phase ≠ .free → (slots.get i).id = (slots.get j).id → i = j
  nodup : dirty.Nodup
  listed : ∀ i, i ∈ dirty ↔ (slots.get i).dirty = true
  honest : ∀ i, ¬ owed i → (slots.get i).honest
  inTime : ∀ i, ¬ late i → (slots.get i).inTime

/-- No fix waits with an id of 0 (R72). -/
def FixesNamed (s : State) : Prop :=
  (∀ f ∈ s.flr.queue, f.id ≠ 0) ∧ (∀ tag f, s.hlc.fixSlot = .waiting tag f → f.id ≠ 0)

theorem objectsSound_iff (s : State) :
    ObjectsSound s ↔ TableFit (fun _ => False) (fun _ => False) s.slots s.dirty ∧ FixesNamed s := by
  constructor
  · rintro ⟨sound, unique, nodup, listed, told, queue, waits⟩
    refine ⟨⟨fun i => ?_, unique, nodup, listed, fun i _ => told i, fun i _ => ?_⟩, queue, waits⟩ <;>
      obtain ⟨free, named, quietRuns, retireRuns, quietWithin, retireWithin, leaving, staying⟩ := sound i
    · exact ⟨free, named, quietRuns, retireRuns, fun h => (leaving h).2, staying⟩
    · exact ⟨quietWithin, retireWithin⟩
  · rintro ⟨h, queue, waits⟩
    refine ⟨fun i => ?_, h.unique, h.nodup, h.listed, fun i => h.honest i (by simp), queue, waits⟩
    obtain ⟨free, named, quietRuns, retireRuns, leaving, staying⟩ := h.fit i
    obtain ⟨quietWithin, retireWithin⟩ := h.inTime i (by simp)
    refine ⟨free, named, quietRuns, retireRuns, quietWithin, retireWithin, fun retiring => ⟨?_, leaving retiring⟩, staying⟩
    by_contra clean
    have truth := h.honest i (by simp) (by simp [retiring]) (by simpa using clean)
    simp [Slot.toldTruth, retiring] at truth

section Tables

variable {late owed : SlotNo → Prop} {slots : Table Slot 128} {dirty : List SlotNo}

/-- One slot and the dirty list change. -/
theorem TableFit.put (h : TableFit late owed slots dirty) {owed' : SlotNo → Prop} {i : SlotNo} {sl : Slot} {dirty' : List SlotNo}
    (fit : sl.Fit) (unique : sl.phase ≠ .free → ∀ j, j ≠ i → (slots.get j).phase ≠ .free → (slots.get j).id ≠ sl.id)
    (nodup : dirty'.Nodup) (others : ∀ j, j ≠ i → (j ∈ dirty' ↔ j ∈ dirty)) (mine : i ∈ dirty' ↔ sl.dirty = true)
    (debts : ∀ j, j ≠ i → owed j → owed' j) (honest : ¬ owed' i → sl.honest) (inTime : ¬ late i → sl.inTime) :
    TableFit late owed' (slots.set i sl) dirty' := by
  refine ⟨fun j => ?_, fun j k => ?_, nodup, fun j => ?_, fun j => ?_, fun j => ?_⟩
  · rw [Table.get_set]
    split
    · exact fit
    · exact h.fit j
  · rw [Table.get_set, Table.get_set]
    split <;> rename_i hj <;> split <;> rename_i hk
    · exact fun _ _ _ => hj.symm.trans hk
    · exact fun live live' same => absurd same.symm (unique live k (Ne.symm hk) live')
    · exact fun live live' same => absurd same (unique live' j (Ne.symm hj) live)
    · exact h.unique j k
  · rw [Table.get_set]
    split
    · rename_i same
      rw [← same]
      exact mine
    · rename_i other
      rw [others j (Ne.symm other)]
      exact h.listed j
  · rw [Table.get_set]
    split
    · rename_i same
      rw [← same]
      exact honest
    · rename_i other
      exact fun free => h.honest j fun debt => free (debts j (Ne.symm other) debt)
  · rw [Table.get_set]
    split
    · rename_i same
      rw [← same]
      exact inTime
    · exact h.inTime j

/-- A slot keeps its object and its dirty mark. -/
theorem TableFit.change (h : TableFit late owed slots dirty) {owed' : SlotNo → Prop} {i : SlotNo} {sl : Slot}
    (fit : sl.Fit) (live : (slots.get i).phase ≠ .free) (id : sl.id = (slots.get i).id) (mark : sl.dirty = (slots.get i).dirty)
    (debts : ∀ j, j ≠ i → owed j → owed' j) (honest : ¬ owed' i → sl.honest) (inTime : ¬ late i → sl.inTime) :
    TableFit late owed' (slots.set i sl) dirty :=
  h.put fit (fun _ j other live' same => other (h.unique j i live' live (same.trans id))) h.nodup (fun _ _ => .rfl)
    ((h.listed i).trans (by rw [mark])) debts honest inTime

/-- A slot is freed. -/
theorem TableFit.freed (h : TableFit late owed slots dirty) (i : SlotNo) :
    TableFit late (fun j => owed j ∧ j ≠ i) (slots.set i Slot.empty) (dirty.filter (· != i)) :=
  h.put ⟨fun _ => rfl, by simp [Slot.empty], by simp [Slot.empty], by simp [Slot.empty], by simp [Slot.empty], by simp [Slot.empty]⟩
    (by simp [Slot.empty]) (h.nodup.filter _) (fun j other => by simp [other]) (by simp [Slot.empty]) (fun j other debt => ⟨debt, other⟩)
    (fun _ => by simp [Slot.honest, Slot.empty]) (fun _ => by simp [Slot.inTime, Slot.empty, Timer.within])

theorem TableFit.paid (h : TableFit late owed slots dirty) {i : SlotNo} (honest : (slots.get i).honest) :
    TableFit late (fun j => owed j ∧ j ≠ i) slots dirty := by
  refine { h with honest := fun j free => ?_ }
  by_cases other : j = i
  · rw [other]
    exact honest
  · exact h.honest j fun debt => free ⟨debt, other⟩

theorem TableFit.weaken (h : TableFit late owed slots dirty) {late' owed' : SlotNo → Prop} (times : ∀ i, ¬ late' i → ¬ late i)
    (debts : ∀ i, owed i → owed' i) : TableFit late' owed' slots dirty :=
  { h with honest := fun i free => h.honest i fun debt => free (debts i debt), inTime := fun i free => h.inTime i (times i free) }

end Tables

/-! ### The Reporter -/

theorem fit_caughtUp {sl : Slot} (h : sl.Fit) : sl.caughtUp.Fit := by
  have kept (told : ZoneSet) (quiet dirty : Bool) (live : sl.phase ≠ .free) :
      ({ sl with toldSet := told, toldQuiet := quiet, dirty := dirty } : Slot).Fit :=
    ⟨fun free => absurd free live, h.named, h.quietRuns, h.retireRuns, h.leaving, h.staying⟩
  unfold Slot.caughtUp
  split
  · exact ⟨fun _ => rfl, by simp [Slot.empty], by simp [Slot.empty], by simp [Slot.empty], by simp [Slot.empty], by simp [Slot.empty]⟩
  · exact kept _ _ _ (by simp [*])
  · exact kept _ _ _ (by simp [*])
  · rename_i free
    rw [h.free free]
    exact ⟨fun _ => rfl, by simp [Slot.empty], by simp [Slot.empty], by simp [Slot.empty], by simp [Slot.empty], by simp [Slot.empty]⟩

theorem honest_caughtUp (sl : Slot) : sl.caughtUp.honest := by
  intro live _
  unfold Slot.caughtUp at *
  split at live <;> simp_all [Slot.toldTruth, Slot.empty]

theorem caughtUp_timers (sl : Slot) : sl.inTime → sl.caughtUp.inTime := by
  unfold Slot.caughtUp
  split <;> intro h
  · exact ⟨trivial, trivial⟩
  all_goals exact h

theorem caughtUp_id {sl : Slot} (live : sl.caughtUp.phase ≠ .free) : sl.phase ≠ .free ∧ sl.caughtUp.id = sl.id := by
  unfold Slot.caughtUp at *
  split at live <;> simp_all [Slot.empty]

@[simp] theorem caughtUp_dirty (sl : Slot) : sl.caughtUp.dirty = false := by
  unfold Slot.caughtUp
  split <;> rfl

theorem tableFit_caughtUp {late owed : SlotNo → Prop} {s : State} (h : TableFit late owed s.slots s.dirty) (i : SlotNo) :
    TableFit late owed (caughtUpState i s).slots (caughtUpState i s).dirty :=
  h.put (fit_caughtUp (h.fit i))
    (fun live j other live' same => other (h.unique j i live' (caughtUp_id live).1 (same.trans (caughtUp_id live).2)))
    (h.nodup.filter _) (fun j other => by simp [caughtUpState, other]) (by simp [caughtUpState]) (fun _ _ debt => debt) (fun _ => honest_caughtUp _)
    (fun time => caughtUp_timers _ (h.inTime i time))

theorem tableFit_reconcile {late owed : SlotNo → Prop} {s : State} (h : TableFit late owed s.slots s.dirty) :
    TableFit late owed (reconcile s).slots (reconcile s).dirty :=
  reconcile_keeps (P := fun s => TableFit late owed s.slots s.dirty) (fun _ i h _ _ => tableFit_caughtUp h i) h

/-- A group that tells slot `sl` all it owes: RETIRED for a RETIRING object, else the truth (R99, R101). -/
structure TellsAll (sl : Slot) (group : List Notice) : Prop where
  size : group.length ≤ (catchUpGroup sl).length
  tells : (sl.phase = .retiring ∧ ∃ front c, (∀ c, Notice.retired c ∉ front) ∧ group = front ++ [Notice.retired c]) ∨
    (sl.phase ≠ .retiring ∧ (∀ c, Notice.retired c ∉ group) ∧ (sl.toldAll group).toldTruth)

theorem toldAll_same (sl : Slot) (group : List Notice) :
    ∃ told quiet, sl.toldAll group = { sl with toldSet := told, toldQuiet := quiet } := by
  induction group generalizing sl with
  | nil => exact ⟨_, _, rfl⟩
  | cons n group ih =>
    obtain ⟨told, quiet, e⟩ := ih (sl.told n)
    refine ⟨told, quiet, ?_⟩
    rw [toldAll_cons, e]
    cases n <;> rfl

theorem Slot.Fit.retold {sl : Slot} (h : sl.Fit) (live : sl.phase ≠ .free) (told : ZoneSet) (quiet dirty : Bool) :
    ({ sl with toldSet := told, toldQuiet := quiet, dirty := dirty } : Slot).Fit :=
  ⟨fun free => absurd free live, h.named, h.quietRuns, h.retireRuns, h.leaving, h.staying⟩

/-- A dirty object's group is refused, and it keeps its place (R97). -/
theorem freshGroup_dirty {i : SlotNo} {group : List Notice} {s : State} (mark : (s.slots.get i).dirty = true) : freshGroup i group s = s := by
  rcases freshGroup_cases i group s with ⟨-, e⟩ | ⟨-, clean, -, e⟩ | ⟨-, -, e⟩ | ⟨-, clean, -, e⟩
  · exact e
  · simp [mark] at clean
  · exact e
  · simp [mark] at clean

/-- A group that tells a clean object's whole debt leaves the object told, or dirty, or gone (R94 to R97). -/
theorem tableFit_freshGroup {late owed : SlotNo → Prop} {s : State} {i : SlotNo} {group : List Notice}
    (h : TableFit late owed s.slots s.dirty) (live : (s.slots.get i).phase ≠ .free)
    (tells : (s.slots.get i).dirty = false → TellsAll (s.slots.get i) group) :
    TableFit late (fun j => owed j ∧ j ≠ i) (freshGroup i group s).slots (freshGroup i group s).dirty := by
  cases mark : (s.slots.get i).dirty with
  | true =>
    rw [freshGroup_dirty mark]
    exact h.paid (by simp [Slot.honest, mark])
  | false =>
    obtain ⟨size, tells⟩ := tells mark
    rw [freshGroup_owed size]
    simp only [mark, Bool.false_eq_true, or_false]
    split
    · rename_i empty
      refine h.paid fun _ _ => ?_
      rcases tells with ⟨-, front, c, -, group⟩ | ⟨-, -, truth⟩
      · simp [empty] at group
      · simpa [empty] using truth
    split
    · rcases tells with ⟨-, front, c, stays, rfl⟩ | ⟨-, stays, truth⟩
      · rw [queueGroup_retires c stays]
        exact h.freed i
      · rw [queueGroup_stays stays]
        obtain ⟨told, quiet, e⟩ := toldAll_same (s.slots.get i) group
        rw [e] at truth
        simp only [State.withSlots_slots, State.withSlots_dirty, State.withEq_dirty, e]
        exact h.change ((h.fit i).retold live _ _ _) live rfl rfl (fun j other debt => ⟨debt, other⟩) (fun _ _ _ => truth) (h.inTime i)
    · have absent : i ∉ s.dirty := fun m => by simp [(h.listed i).1 m] at mark
      refine h.put ((h.fit i).retold live _ _ true) (fun _ j other live' same => other (h.unique j i live' live same)) ?_
        (fun j other => by simp [markedDirty, other]) (by simp [markedDirty]) (fun j other debt => ⟨debt, other⟩)
        (fun _ => by simp [Slot.honest]) (h.inTime i)
      rw [markedDirty, State.withDirty_dirty, List.nodup_append]
      exact ⟨h.nodup, by simp, fun a ha b hb same => absent (by rwa [← List.mem_singleton.1 hb, ← same])⟩

/-! ### The groups tell the whole debt -/

theorem zones_minus_none (a : ZoneSet) : a &&& ~~~(0 : ZoneSet) = a := by
  have all : ~~~(0 : ZoneSet) = BitVec.allOnes 64 := by decide
  rw [all, BitVec.and_allOnes]

theorem zones_minus_rest (a b : ZoneSet) : a &&& ~~~(a &&& ~~~b) = a &&& b := by
  refine zoneSet_ext fun z => ?_
  rw [inSet_minus, inSet_minus, inSet_inter]
  cases inSet a z <;> cases inSet b z <;> rfl

theorem zones_minus_inter (a b : ZoneSet) : a &&& ~~~(a &&& b) = a &&& ~~~b := by
  refine zoneSet_ext fun z => ?_
  rw [inSet_minus, inSet_minus, inSet_inter]
  cases inSet a z <;> cases inSet b z <;> rfl

theorem zonesOf_none : zonesOf 0#64 = [] :=
  List.eq_nil_iff_forall_not_mem.2 fun z => by
    rw [mem_zonesOf]
    exact Bool.eq_false_iff.1 (inSet_zero z)

@[simp] theorem exits_length (zones : ZoneSet) (c : Cause) : (exits zones c).length = (zonesOf zones).length :=
  List.length_map _

@[simp] theorem enters_length (zones : ZoneSet) (c : Cause) : (enters zones c).length = (zonesOf zones).length :=
  List.length_map _

/-- The causes of exits do not matter to the told record (R95). -/
theorem toldAll_exits_by (sl : Slot) (zones : ZoneSet) (c : ZoneId → Cause) :
    sl.toldAll ((zonesOf zones).map fun z => .exit z (c z)) = { sl with toldSet := sl.toldSet &&& ~~~zones } := by
  have list (zs : List ZoneId) (sl : Slot) :
      sl.toldAll (zs.map fun z => .exit z (c z)) = sl.toldAll (zs.map fun z => .exit z .fix) := by
    induction zs generalizing sl with
    | nil => rfl
    | cons z zs ih => exact ih (sl.told (.exit z (c z)))
  rw [list]
  exact toldAll_exits sl zones .fix

/-- A slot that leaves the table with a cause (R61). -/
def Slot.left (cause : RetireCause) (sl : Slot) : Slot :=
  { sl with phase := .retiring, cause := cause, inside := 0, run := Table.fill 64 0, quietTimer := .stopped, retireTimer := .stopped }

theorem retireObject_eq (i : SlotNo) (cause : RetireCause) (s : State) :
    retireObject i cause s = freshGroup i (exits (s.slots.get i).inside .retire ++ [.retired cause])
      (s.withSlots (s.slots.set i ((s.slots.get i).left cause))) := rfl

theorem tellsAll_retire {sl : Slot} (truth : sl.toldTruth) (cause : RetireCause) :
    TellsAll (sl.left cause) (exits sl.inside .retire ++ [.retired cause]) := by
  refine ⟨?_, .inl ⟨rfl, _, cause, retired_notMem_exits _ _, rfl⟩⟩
  have debt : (sl.left cause).toldSet &&& ~~~(sl.left cause).inside = sl.inside := by
    show sl.toldSet &&& ~~~(0 : ZoneSet) = sl.inside
    rw [truth.2, zones_minus_none]
  rw [catchUpGroup_retires (sl := sl.left cause) rfl]
  simp only [catchUpStay, debt, List.length_append, exits_length, List.length_singleton]
  omega

theorem tellsAll_quiet {sl : Slot} (truth : sl.toldTruth) (phase : sl.phase = .tracked) (active : Table ActiveRec 64) (retireTime : Nat) :
    TellsAll (quietSlot active retireTime sl) (quietGroup active sl) := by
  have told : sl.toldSet = sl.inside := truth.2
  have toldQuiet : sl.toldQuiet = false := by simpa [Slot.toldTruth, phase] using truth.1
  refine ⟨?_, .inr ⟨by simp [quietSlot], by simp [quietGroup], ?_⟩⟩
  · rw [catchUpGroup_stays (by simp [quietSlot])]
    simp [catchUpStay, quietSlot, quietGroup, told, toldQuiet, zones_minus_rest]
  · rw [quietGroup, toldAll_append, toldAll_exits]
    simp [Slot.toldTruth, Slot.told, quietSlot, told, zones_minus_inter]

theorem tellsAll_completion {sl : Slot} (truth : sl.toldTruth) (active : Table ActiveRec 64) (c : Context) (f : Fix) (quietTime : Nat) :
    TellsAll (completedSlot active c f quietTime sl) (completionGroup active c sl) := by
  obtain ⟨presence, told⟩ := truth
  have set := toldSet_caughtUp sl.inside (dwellInside active c sl)
  refine ⟨?_, .inr ⟨by simp [completedSlot], ?_, ?_⟩⟩
  · rw [catchUpGroup_stays (by simp [completedSlot])]
    have lengths : (catchUpStay (completedSlot active c f quietTime sl)).length = (completionGroup active c sl).length := by
      simp only [catchUpStay, completionGroup, completedSlot, told, List.length_append, exits_length, enters_length]
      rcases presence with ⟨phase, quiet⟩ | ⟨phase, quiet⟩ <;> simp [phase, quiet]
    exact lengths.ge
  · exact fun c => ((properGroup_completion sl active _ sl).shape.elim fun front h => by
      rcases h with ⟨stays, same | ⟨retiring, -⟩⟩
      · rw [same]; exact stays c
      · rcases presence with ⟨phase, -⟩ | ⟨phase, -⟩ <;> simp [phase] at retiring)
  · rw [completionGroup, toldAll_append, toldAll_append, toldAll_exits, toldAll_enters]
    rcases presence with ⟨phase, quiet⟩ | ⟨phase, quiet⟩ <;> simp [Slot.toldTruth, Slot.told, completedSlot, told, phase, quiet, set]

theorem tellsAll_forced {sl : Slot} (truth : sl.toldTruth) (active : Table ActiveRec 64) (changed : ZoneSet) :
    TellsAll (commitSlot active changed sl) (forcedExits active changed sl) := by
  obtain ⟨presence, told⟩ := truth
  have live : sl.phase ≠ .free := by rcases presence with ⟨phase, -⟩ | ⟨phase, -⟩ <;> simp [phase]
  have stays : sl.phase ≠ .retiring := by rcases presence with ⟨phase, -⟩ | ⟨phase, -⟩ <;> simp [phase]
  have left : sl.inside &&& ~~~(sl.inside &&& ~~~lostZones active changed sl) = lostZones active changed sl := by
    rw [zones_minus_rest]
    refine zoneSet_ext fun z => ?_
    rw [inSet_inter, inSet_lostZones]
    cases inSet sl.inside z <;> simp
  simp only [commitSlot, live, if_false]
  refine ⟨?_, .inr ⟨stays, by simp [forcedExits], ?_⟩⟩
  · rw [catchUpGroup_stays (by exact stays)]
    simp [catchUpStay, forcedExits, told, left]
    omega
  · rw [forcedExits, toldAll_exits_by]
    exact ⟨presence, by rw [told]⟩

/-! ### Each operation -/

section Operations

variable {late : SlotNo → Prop} {s : State}

/-- A change of one live slot and the group that tells of it (R94). -/
theorem tableFit_handOver (h : TableFit late (fun _ => False) s.slots s.dirty) {i : SlotNo} {sl : Slot} {group : List Notice}
    (live : (s.slots.get i).phase ≠ .free) (stays : sl.phase ≠ .free) (fit : sl.Fit) (id : sl.id = (s.slots.get i).id)
    (mark : sl.dirty = (s.slots.get i).dirty) (inTime : ¬ late i → sl.inTime)
    (tells : (s.slots.get i).toldTruth → TellsAll sl group) :
    TableFit late (fun _ => False) (freshGroup i group (s.withSlots (s.slots.set i sl))).slots
      (freshGroup i group (s.withSlots (s.slots.set i sl))).dirty := by
  have changed : TableFit late (fun j => j = i) (s.slots.set i sl) s.dirty :=
    h.change fit live id mark (by simp) (by simp) inTime
  refine (tableFit_freshGroup (s := s.withSlots (s.slots.set i sl)) changed (by simpa using stays) fun clean => ?_).weaken
    (fun _ time => time) (by simp)
  simp only [State.withSlots_slots, Table.get_set_self] at clean ⊢
  exact tells (h.honest i (by simp) live (by rw [← mark, clean]))

theorem tableFit_retire (h : TableFit late (fun _ => False) s.slots s.dirty) {i : SlotNo} {cause : RetireCause} (some_cause : cause ≠ .none)
    (phase : (s.slots.get i).phase = .tracked ∨ (s.slots.get i).phase = .quiet) :
    TableFit late (fun _ => False) (retireObject i cause s).slots (retireObject i cause s).dirty := by
  have live : (s.slots.get i).phase ≠ .free := by rcases phase with phase | phase <;> simp [phase]
  rw [retireObject_eq]
  exact tableFit_handOver h live (by simp [Slot.left])
    ⟨by simp [Slot.left], fun _ => (h.fit i).named live, by simp [Slot.left], by simp [Slot.left], fun _ => ⟨rfl, some_cause⟩, by simp [Slot.left]⟩
    rfl rfl (fun _ => ⟨trivial, trivial⟩) fun truth => tellsAll_retire truth cause

theorem start_within (length : Nat) : (Timer.start length).within := by
  unfold Timer.start
  split
  · trivial
  · exact Nat.zero_le _

theorem tableFit_quiet (h : TableFit late (fun _ => False) s.slots s.dirty) {i : SlotNo} (phase : (s.slots.get i).phase = .tracked) :
    TableFit late (fun _ => False) (becomeQuiet i s).slots (becomeQuiet i s).dirty := by
  have live : (s.slots.get i).phase ≠ .free := by simp [phase]
  have staying := (h.fit i).staying (by simp [phase])
  exact tableFit_handOver h live (by simp [quietSlot])
    ⟨by simp [quietSlot], fun _ => (h.fit i).named live, by simp [quietSlot], fun _ => rfl, by simp [quietSlot], fun _ => staying⟩
    rfl rfl (fun _ => ⟨trivial, start_within _⟩) fun truth => tellsAll_quiet truth phase _ _

theorem tableFit_write (h : TableFit late (fun _ => False) s.slots s.dirty) (c : Context) {i : SlotNo} {f : Fix}
    (holds : stillHolds (s.slots.get i) f.id = true) :
    TableFit late (fun _ => False) (writeCompletion c i f s).slots (writeCompletion c i f s).dirty := by
  have phase : (s.slots.get i).phase = .tracked ∨ (s.slots.get i).phase = .quiet := by
    simp only [stillHolds, Bool.and_eq_true, Bool.or_eq_true, beq_iff_eq] at holds
    exact holds.2
  have live : (s.slots.get i).phase ≠ .free := by rcases phase with phase | phase <;> simp [phase]
  have staying := (h.fit i).staying (by rcases phase with phase | phase <;> simp [phase])
  exact tableFit_handOver h live (by simp [completedSlot])
    ⟨by simp [completedSlot], fun _ => (h.fit i).named live, fun _ => rfl, by simp [completedSlot], by simp [completedSlot], fun _ => staying⟩
    rfl rfl (fun _ => ⟨start_within _, trivial⟩) fun truth => tellsAll_completion truth _ c f _

theorem tableFit_newObject (h : TableFit late (fun _ => False) s.slots s.dirty) {i : SlotNo} {id : ObjId} (cls : BitVec 3) (time : Nat)
    (free : (s.slots.get i).phase = .free) (unknown : findObject s.slots id = none) (named : id ≠ 0) :
    TableFit late (fun _ => False) (s.slots.set i (Slot.entered id cls time)) s.dirty := by
  have absent := findObject_none.1 unknown
  have clean : i ∉ s.dirty := fun m => by
    have mark := (h.listed i).1 m
    rw [(h.fit i).free free] at mark
    simp [Slot.empty] at mark
  exact h.put
    ⟨by simp [Slot.entered], fun _ => named, fun _ => rfl, by simp [Slot.entered, Slot.empty], by simp [Slot.entered], fun _ => rfl⟩
    (fun _ j _ live same => absent j live same) h.nodup (fun _ _ => .rfl) (by simp [clean, Slot.entered, Slot.empty]) (by simp)
    (fun _ _ _ => ⟨.inl ⟨rfl, rfl⟩, rfl⟩) (fun _ => ⟨start_within _, trivial⟩)

theorem tableFit_stale (h : TableFit late (fun _ => False) s.slots s.dirty) {i : SlotNo} (held : (s.slots.get i).phase ≠ .free) :
    TableFit late (fun _ => False) (countStale i s).slots (countStale i s).dirty := by
  obtain ⟨-, named, quietRuns, retireRuns, leaving, staying⟩ := h.fit i
  exact h.change ⟨fun free => absurd free held, named, quietRuns, retireRuns, leaving, staying⟩ held rfl rfl (by simp)
    (fun _ => h.honest i (by simp)) (h.inTime i)

/-- The forced exits of a commit, slot after slot (R66). -/
theorem tableFit_commitGroups {old : Table Slot 128} (active : Table ActiveRec 64) (changed : ZoneSet)
    (truth : ∀ i, (old.get i).phase ≠ .free → (old.get i).dirty = false → (old.get i).toldTruth) (l : List SlotNo) (nodup : l.Nodup)
    (s : State) (waits : ∀ i ∈ l, s.slots.get i = commitSlot active changed (old.get i)) (h : TableFit late (· ∈ l) s.slots s.dirty) :
    TableFit late (fun _ => False) (l.foldl (fun s i => freshGroup i (forcedExits active changed (old.get i)) s) s).slots
      (l.foldl (fun s i => freshGroup i (forcedExits active changed (old.get i)) s) s).dirty := by
  induction l generalizing s with
  | nil => exact h.weaken (fun _ time => time) (by simp)
  | cons i l ih =>
    rw [List.nodup_cons] at nodup
    have mine := waits i (by simp)
    have proper := properGroup_forced (s.slots.get i) active changed (old.get i)
    refine ih nodup.2 (freshGroup i (forcedExits active changed (old.get i)) s) (fun j hj => ?_) ?_
    · rw [freshGroup_other proper fun same => nodup.1 (same ▸ hj)]
      exact waits j (by simp [hj])
    · by_cases live : (old.get i).phase = .free
      · have empty : forcedExits active changed (old.get i) = [] := by simp [forcedExits, lostZones, live, zonesOf_none]
        rw [empty]
        show TableFit _ _ s.slots s.dirty
        have free : (s.slots.get i).phase = .free := by simp [mine, commitSlot, live]
        exact (h.paid (i := i) fun live' => absurd free live').weaken (fun _ time => time) (by simp +contextual)
      · have phase : (s.slots.get i).phase = (old.get i).phase := by simp [mine, commitSlot, live]
        have mark : (s.slots.get i).dirty = (old.get i).dirty := by simp [mine, commitSlot, live]
        refine (tableFit_freshGroup h (by rw [phase]; exact live) fun clean => ?_).weaken (fun _ time => time) (by simp +contextual)
        rw [mine]
        exact tellsAll_forced (truth i live (by rw [← mark, clean])) active changed

theorem fit_commitSlot {sl : Slot} (h : sl.Fit) (active : Table ActiveRec 64) (changed : ZoneSet) : (commitSlot active changed sl).Fit := by
  unfold commitSlot
  split
  · exact h
  · rename_i live
    refine ⟨fun free => absurd free live, h.named, h.quietRuns, h.retireRuns, fun retiring => ?_, h.staying⟩
    have none_inside := (h.leaving retiring).1
    exact ⟨by simp [none_inside], (h.leaving retiring).2⟩

theorem commitSlot_kept (active : Table ActiveRec 64) (changed : ZoneSet) (sl : Slot) :
    (commitSlot active changed sl).phase = sl.phase ∧ (commitSlot active changed sl).id = sl.id ∧
    (commitSlot active changed sl).dirty = sl.dirty ∧ ((commitSlot active changed sl).inTime ↔ sl.inTime) := by
  unfold commitSlot
  split <;> exact ⟨rfl, rfl, rfl, .rfl⟩

theorem tableFit_commit (h : TableFit late (fun _ => False) s.slots s.dirty) :
    TableFit late (fun _ => False) (applyCommit s).slots (applyCommit s).dirty := by
  refine tableFit_commitGroups (old := s.slots) _ _ (fun i => h.honest i (by simp)) (List.finRange 128) (List.nodup_finRange 128)
    ((planTaken s).withSlots (s.slots.map (commitSlot (s.zs.commit s.ev.context.isSome).active s.zs.changedSet)))
    (fun i _ => Table.get_map _ _ i) ?_
  simp only [State.withSlots_slots]
  refine ⟨fun i => ?_, fun i j => ?_, h.nodup, fun i => ?_, fun i free => absurd (List.mem_finRange i) free, fun i time => ?_⟩
  · rw [Table.get_map]
    exact fit_commitSlot (h.fit i) _ _
  · simp only [Table.get_map, commitSlot_kept]
    exact h.unique i j
  · rw [Table.get_map, (commitSlot_kept _ _ _).2.2.1]
    exact h.listed i
  · rw [Table.get_map, (commitSlot_kept _ _ _).2.2.2]
    exact h.inTime i time

theorem tableFit_reset {slots : Table Slot 128} {dirty : List SlotNo} (empty : ∀ i, slots.get i = Slot.empty) (clean : dirty = []) :
    TableFit late (fun _ => False) slots dirty := by
  refine ⟨fun i => ?_, fun i j live => ?_, by simp [clean], fun i => ?_, fun i _ live => ?_, fun i _ => ?_⟩
  · rw [empty]
    exact ⟨fun _ => rfl, by simp [Slot.empty], by simp [Slot.empty], by simp [Slot.empty], by simp [Slot.empty], by simp [Slot.empty]⟩
  · simp [empty, Slot.empty] at live
  · simp [empty, clean, Slot.empty]
  · simp [empty, Slot.empty] at live
  · rw [empty]
    exact ⟨trivial, trivial⟩

end Operations

/-! ### Every move, every millisecond -/

/-- The end of a deferred request puts no fix into the fix slot (R146). -/
theorem finishDeferred_waits {d : DeferredSlot} {r : Result} {b : List Byte} {s : State} {tag : Byte} {f : Fix}
    (waits : (finishDeferred d r b s).hlc.fixSlot = .waiting tag f) : s.hlc.fixSlot = .waiting tag f := by
  rcases finishDeferred_cases d r b s with ⟨-, e⟩ | ⟨tag', -, ⟨-, e⟩ | ⟨-, e⟩⟩ <;> rw [e] at waits
  · exact waits
  · cases d with
    | fix => cases waits
    | query => exact waits
  · cases d with
    | fix => cases waits
    | query => exact waits

theorem finishDeferred_flr (d : DeferredSlot) (r : Result) (b : List Byte) (s : State) : (finishDeferred d r b s).flr = s.flr := by
  rcases finishDeferred_cases d r b s with ⟨-, e⟩ | ⟨tag, -, ⟨-, e⟩ | ⟨-, e⟩⟩ <;> rw [e] <;> rfl

theorem finishDeferred_dirty (d : DeferredSlot) (r : Result) (b : List Byte) (s : State) : (finishDeferred d r b s).dirty = s.dirty := by
  rcases finishDeferred_cases d r b s with ⟨-, e⟩ | ⟨tag, -, ⟨-, e⟩ | ⟨-, e⟩⟩ <;> rw [e] <;> rfl

/-- What a reply's departure leaves alone, and that it puts no fix into the fix slot (R147). -/
theorem replyDeparts_keeps (s : State) : (replyDeparts s).flr = s.flr ∧ (replyDeparts s).dirty = s.dirty ∧
    ∀ tag f, (replyDeparts s).hlc.fixSlot = .waiting tag f → s.hlc.fixSlot = .waiting tag f := by
  unfold replyDeparts
  split
  · exact ⟨rfl, rfl, fun _ _ h => h⟩
  · unfold releaseHeldReply
    split
    · exact ⟨rfl, rfl, fun _ _ h => h⟩
    · rename_i d rest held
      split
      · exact ⟨rfl, rfl, fun _ _ h => h⟩
      · refine ⟨rfl, rfl, fun tag f h => ?_⟩
        cases d with
        | fix => cases h
        | query => exact h

theorem fixesNamed_same {s t : State} (h : FixesNamed s) (flr : t.flr = s.flr)
    (waits : ∀ tag f, t.hlc.fixSlot = .waiting tag f → s.hlc.fixSlot = .waiting tag f) : FixesNamed t :=
  ⟨by rw [flr]; exact h.1, fun tag f w => h.2 tag f (waits tag f w)⟩

theorem fixesNamed_reporter {s t : State} (h : FixesNamed s) (same : SameBesides s t) : FixesNamed t :=
  fixesNamed_same h same.flr (by rw [same.hlc]; exact fun _ _ w => w)

theorem fixesNamed_ends {s : State} (h : FixesNamed s) (d : DeferredSlot) (r : Result) (b : List Byte) :
    FixesNamed (becomeIdle (finishDeferred d r b s)) :=
  fixesNamed_same h (finishDeferred_flr d r b s) fun _ _ w => finishDeferred_waits (d := d) (r := r) (b := b) w

theorem fixesNamed_move {ok : Prop} (s t : State) (h : FixesNamed s) (m : Move ok s t) : FixesNamed t := by
  obtain ⟨queue, waiting⟩ := h
  cases m with
  | pinReset hrate frate => exact ⟨fun f hf => absurd hf List.not_mem_nil, fun _ _ w => nomatch w⟩
  | restart => exact ⟨fun f hf => absurd hf List.not_mem_nil, fun _ _ w => nomatch w⟩
  | departs =>
    obtain ⟨flr, -, waits⟩ := replyDeparts_keeps s
    exact fixesNamed_same ⟨queue, waiting⟩ flr waits
  | postFix tag f passes =>
    refine ⟨queue, fun tag' f' w => ?_⟩
    cases w
    intro unnamed
    rw [postFixRefusal_badValue (.inl unnamed)] at passes
    cases passes
  | commit closed => exact fixesNamed_reporter (s := planTaken s) ⟨queue, waiting⟩ (applyCommit_same s)
  | reconcile => exact fixesNamed_reporter ⟨queue, waiting⟩ (reconcile_same s)
  | retire i cause some_cause phase => exact fixesNamed_reporter ⟨queue, waiting⟩ (retireObject_same i cause s)
  | quiet i phase => exact fixesNamed_reporter (s := s.withSlots _) ⟨queue, waiting⟩ (freshGroup_same _ _ _)
  | write c i f holds => exact fixesNamed_reporter ⟨queue, waiting⟩ (writeCompletion_same c i f s)
  | release seq => exact fixesNamed_reporter (s := s.withEq _) ⟨queue, waiting⟩ (entryFreed_same (s.withEq _))
  | releaseLate seq => exact fixesNamed_reporter (s := s.withEq _) ⟨queue, waiting⟩ (entryFreed_same (s.withEq _))
  | redeliver x held => exact fixesNamed_reporter ⟨queue, waiting⟩ (redeliver_same x s)
  | expireHeld => exact fixesNamed_reporter ⟨queue, waiting⟩ (expireHeld_same _ s)
  | queueFix f named room =>
    refine ⟨fun x hx => ?_, waiting⟩
    rcases List.mem_append.1 hx with hx | hx
    · exact queue x hx
    · rw [List.mem_singleton.1 hx]
      exact named
  | popFix f rest first => exact ⟨fun x hx => queue x (by rw [first]; exact List.mem_cons_of_mem f hx), waiting⟩
  | openHostFix tag f i idle waits => exact ⟨queue, fun _ _ w => nomatch w⟩
  | refuseHostFix tag f r idle waits => 
    exact fixesNamed_ends (s := s.withHlc { s.hlc with fixSlot := .granted tag f }) ⟨queue, fun _ _ w => nomatch w⟩ .fix r []
  | endHostFix r body busy => exact fixesNamed_ends ⟨queue, waiting⟩ .fix r body
  | endQuery r body busy => exact fixesNamed_ends ⟨queue, waiting⟩ .query r body
  | _ => exact ⟨queue, waiting⟩

/-- The Object Table and its dirty list fit, and no fix without a name waits. -/
def ObjectsFit (late : SlotNo → Prop) (s : State) : Prop :=
  TableFit late (fun _ => False) s.slots s.dirty ∧ FixesNamed s

section Moving

variable {late : SlotNo → Prop}

theorem tableFit_entryFreed {s : State} (h : TableFit late (fun _ => False) s.slots s.dirty) :
    TableFit late (fun _ => False) (entryFreed s).slots (entryFreed s).dirty :=
  tableFit_reconcile
    (s := s.withEq ((s.eq.queueWaiting .admitRefused s.params.sysEventPrio).queueWaiting .feedOverrun s.params.sysEventPrio)) h

theorem tableFit_redeliver {s : State} (h : TableFit late (fun _ => False) s.slots s.dirty) (x : Held) :
    TableFit late (fun _ => False) (redeliver x s).slots (redeliver x s).dirty := by
  unfold redeliver
  dsimp only
  split
  · exact tableFit_entryFreed (s := s.withEq _) h
  · exact h

theorem tableFit_expireHeld (held : List Held) {s : State} (h : TableFit late (fun _ => False) s.slots s.dirty) :
    TableFit late (fun _ => False) (held.foldl expireHeld s).slots (held.foldl expireHeld s).dirty := by
  induction held generalizing s with
  | nil => exact h
  | cons x held ih =>
    refine ih ?_
    unfold expireHeld
    split
    · exact tableFit_redeliver h x
    · exact h

theorem tableFit_same {s t : State} (h : TableFit late (fun _ => False) s.slots s.dirty) (slots : t.slots = s.slots)
    (dirty : t.dirty = s.dirty) : TableFit late (fun _ => False) t.slots t.dirty := by
  rw [slots, dirty]
  exact h

theorem objectsFit_move {ok : Prop} (s t : State) (h : ObjectsFit late s) (m : Move ok s t) : ObjectsFit late t := by
  refine ⟨?_, fixesNamed_move s t h.2 m⟩
  obtain ⟨h, queue, waiting⟩ := h
  cases m with
  | pinReset hrate frate => exact tableFit_reset (fun i => Table.get_fill _ i) rfl
  | restart => exact tableFit_reset (fun i => Table.get_fill _ i) rfl
  | departs => exact tableFit_same h (replyDeparts_slots s) (replyDeparts_keeps s).2.1
  | commit closed => exact tableFit_commit h
  | newObject i id cls free unknown given =>
    refine tableFit_newObject h cls _ free unknown ?_
    rcases given with named | ⟨tag, f, waits, rfl⟩ | ⟨f, queued, rfl⟩
    · exact named
    · exact waiting tag f waits
    · exact queue f queued
  | stale i held => exact tableFit_stale h held
  | free i => exact (h.freed i).weaken (fun _ time => time) (by simp)
  | reconcile => exact tableFit_reconcile h
  | retire i cause some_cause phase => exact tableFit_retire h some_cause phase
  | quiet i phase => exact tableFit_quiet h phase
  | write c i f holds => exact tableFit_write h c holds
  | release seq => exact tableFit_entryFreed (s := s.withEq _) h
  | releaseLate seq => exact tableFit_entryFreed (s := s.withEq _) h
  | redeliver x held => exact tableFit_redeliver h x
  | expireHeld => exact tableFit_expireHeld _ h
  | refuseHostFix tag f r idle waits =>
    exact tableFit_same (s := s.withHlc _) h (finishDeferred_slots .fix r [] (s.withHlc _)) (finishDeferred_dirty .fix r [] (s.withHlc _))
  | endHostFix r body busy => exact tableFit_same h (finishDeferred_slots .fix r body s) (finishDeferred_dirty .fix r body s)
  | endQuery r body busy => exact tableFit_same h (finishDeferred_slots .query r body s) (finishDeferred_dirty .query r body s)
  | _ => exact h

/-- A millisecond's counting may take every running timer past its length (R1). -/
theorem objectsFit_count {s : State} (h : ObjectsFit (fun _ => False) s) : ObjectsFit (fun _ => True) (countMillisecond s) := by
  obtain ⟨h, named⟩ := h
  have ticked (i : SlotNo) : (countMillisecond s).slots.get i = (s.slots.get i).tick := Table.get_map _ _ i
  have stopped (t : Timer) : t.tick = .stopped ↔ t = .stopped := by cases t <;> simp [Timer.tick]
  refine ⟨⟨fun i => ?_, fun i j => ?_, h.nodup, fun i => ?_, fun i free => ?_, fun i late => absurd trivial late⟩, named⟩
  · rw [ticked]
    obtain ⟨free, named, quietRuns, retireRuns, leaving, staying⟩ := h.fit i
    refine ⟨fun phase => ?_, named, fun runs => quietRuns fun stop => runs ((stopped _).2 stop),
      fun runs => retireRuns fun stop => runs ((stopped _).2 stop), leaving, staying⟩
    rw [free phase]
    rfl
  · rw [ticked, ticked]
    exact h.unique i j
  · rw [ticked]
    exact h.listed i
  · rw [ticked]
    exact h.honest i (by simp)

theorem reported_inTime {sl sl' : Slot} (h : sl.Reported sl') (fit : sl'.Fit) (time : sl.inTime) : sl'.inTime := by
  rcases h with ⟨-, free⟩ | ⟨told, quiet, dirty, rfl, -⟩
  · rw [fit.free free]
    exact ⟨trivial, trivial⟩
  · exact time

theorem within_of_not_overdue {t : Timer} (h : t.overdue = false) : t.within := by
  cases t with
  | stopped => trivial
  | running length elapsed => simpa [Timer.overdue, Timer.within] using h

/-- After its turn in the expiries a slot's timers are within their lengths (R1, R56, R59). -/
theorem expireSlot_inTime {s : State} (h : ObjectsFit late s) (i : SlotNo) : ((expireSlot s i).slots.get i).inTime := by
  have after := ((expireSlot_moves (ok := False) s i).keeps objectsFit_move h).1.fit i
  have fit := h.1.fit i
  revert after
  unfold expireSlot
  dsimp only
  split
  · intro after
    refine reported_inTime (freshGroup_reported (properGroup_quiet (by simp [quietSlot]) _ _) i) after ?_
    rw [State.withSlots_slots, Table.get_set_self]
    exact ⟨trivial, start_within _⟩
  · rename_i notQuiet
    split
    · rw [retireObject_eq]
      intro after
      refine reported_inTime (freshGroup_reported (properGroup_retire (by simp [Slot.left]) _ _) i) after ?_
      rw [State.withSlots_slots, Table.get_set_self]
      exact ⟨trivial, trivial⟩
    · rename_i notRetired
      refine fun _ => ⟨?_, ?_⟩
      · by_cases runs : (s.slots.get i).quietTimer = .stopped
        · rw [runs]
          trivial
        · exact within_of_not_overdue (by simpa [fit.quietRuns runs] using notQuiet)
      · by_cases runs : (s.slots.get i).retireTimer = .stopped
        · rw [runs]
          trivial
        · exact within_of_not_overdue (by simpa [fit.retireRuns runs] using notRetired)

theorem objectsFit_expireSlots (l : List SlotNo) {s : State} (h : ObjectsFit (· ∈ l) s) :
    ObjectsFit (fun _ => False) (l.foldl expireSlot s) := by
  induction l generalizing s with
  | nil => exact ⟨h.1.weaken (by simp) (by simp), h.2⟩
  | cons i l ih =>
    refine ih ?_
    obtain ⟨table, named⟩ := (expireSlot_moves (ok := False) s i).keeps objectsFit_move h
    refine ⟨{ table with inTime := fun j turn => ?_ }, named⟩
    by_cases mine : j = i
    · rw [mine]
      exact expireSlot_inTime h i
    · exact table.inTime j (by simp [mine, turn])

theorem objectsFit_millisecond {s : State} (h : ObjectsFit (fun _ => False) s) : ObjectsFit (fun _ => False) (millisecond s) := by
  have counted : ObjectsFit (· ∈ List.finRange 128) (countMillisecond s) :=
    ⟨(objectsFit_count h).1.weaken (fun i turn => absurd (List.mem_finRange i) turn) (by simp), (objectsFit_count h).2⟩
  have slots := objectsFit_expireSlots (List.finRange 128) counted
  have overdue : ObjectsFit (fun _ => False) (expireOverdue (countMillisecond s)) := by
    unfold expireOverdue
    exact Moves.keeps objectsFit_move slots ((Moves.one .expireHeld).trans (expireGaps_moves (ok := False) _))
  obtain ⟨u, n, moves, e⟩ := walkOn_moves (ok := False) (expireOverdue (countMillisecond s))
  unfold millisecond
  rw [e]
  exact (moves.keeps objectsFit_move overdue : ObjectsFit (fun _ => False) u)

end Moving

/-- Settles O57: every group tells a clean object's whole debt, so it is told the truth or dirty; and a timer past its length expires. -/
theorem stepsKeepTheObjectsSound : Obligations.StepsKeepTheObjectsSound := by
  intro s t sound stepped
  rw [objectsSound_iff] at *
  exact step_keeps (ok := False) (P := ObjectsFit fun _ => False) (by simp) (by simp) objectsFit_move (fun _ h => h)
    objectsFit_millisecond sound stepped

end Sys2Proof.Machine
end

section
/-! SUPPORT. A millisecond moves the links by their gap timers alone (R1, R137, R158). -/

namespace Sys2Proof.Machine

set_option Elab.async false

/-- A receiver after a millisecond: its gap timer has counted, and past 10 ms the frame is abandoned (R1, R137, R158). -/
def Framer.afterMillisecond (f : Framer) : Framer :=
  if f.tick.gapOverdue then .hunt else f.tick

theorem expireSlot_same (s : State) (i : SlotNo) : SameBesides s (expireSlot s i) := by
  unfold expireSlot
  dsimp only
  split
  · exact freshGroup_same _ _ (s.withSlots _)
  · split
    · exact retireObject_same i .quiet s
    · exact .refl s

theorem expireSlots_same (l : List SlotNo) (s : State) : SameBesides s (l.foldl expireSlot s) := by
  induction l generalizing s with
  | nil => exact .refl s
  | cons i l ih => exact (expireSlot_same s i).trans (ih _)

/-- The expiries of slots and held events leave all but the slots, the dirty list and the queue. -/
theorem expireTimers_same (s : State) :
    SameBesides s (((List.finRange 128).foldl expireSlot s).eq.held.foldl expireHeld ((List.finRange 128).foldl expireSlot s)) :=
  (expireSlots_same _ s).trans (expireHeld_same _ _)

theorem expireGaps_links (s : State) :
    (expireGaps s).hlc = { s.hlc with framer := if s.hlc.framer.gapOverdue then .hunt else s.hlc.framer } ∧
    (expireGaps s).flr = { s.flr with framer := if s.flr.framer.gapOverdue then .hunt else s.flr.framer } := by
  unfold expireGaps
  dsimp only
  by_cases host : s.hlc.framer.gapOverdue <;> by_cases feed : s.flr.framer.gapOverdue <;>
    simp [host, feed, abandonHostFrame, abandonFeedFrame, State.withHostFramer, State.withFeedFramer]

theorem expireGaps_rest (s : State) : (expireGaps s).ev = s.ev ∧ (expireGaps s).params = s.params ∧ (expireGaps s).resetn = s.resetn ∧
    (expireGaps s).zs = s.zs ∧ (expireGaps s).slots = s.slots ∧ (expireGaps s).dirty = s.dirty ∧ (expireGaps s).partTime = s.partTime ∧
    (expireGaps s).pending = s.pending ∧ (expireGaps s).paceIndex = s.paceIndex := by
  unfold expireGaps
  dsimp only
  by_cases host : s.hlc.framer.gapOverdue <;> by_cases feed : s.flr.framer.gapOverdue <;>
    simp [host, feed, abandonHostFrame, abandonFeedFrame, State.withHostFramer, State.withFeedFramer]

theorem walkOn_same (s : State) : (walkOn s).hlc = s.hlc ∧ (walkOn s).flr = s.flr ∧ (walkOn s).params = s.params ∧
    (walkOn s).resetn = s.resetn ∧ (walkOn s).zs = s.zs ∧ (walkOn s).slots = s.slots ∧ (walkOn s).dirty = s.dirty ∧ (walkOn s).eq = s.eq ∧
    (walkOn s).partTime = s.partTime ∧ (walkOn s).pending = s.pending ∧ (walkOn s).ev.pointer = s.ev.pointer := by
  unfold walkOn
  split <;> exact ⟨rfl, rfl, rfl, rfl, rfl, rfl, rfl, rfl, rfl, rfl, rfl⟩

theorem millisecond_hlc (s : State) : (millisecond s).hlc = { s.hlc with framer := s.hlc.framer.afterMillisecond } := by
  unfold millisecond expireOverdue
  rw [(walkOn_same _).1]
  dsimp only
  rw [(expireGaps_links _).1, (expireTimers_same (countMillisecond s)).hlc]
  rfl

theorem millisecond_flr (s : State) : (millisecond s).flr = { s.flr with framer := s.flr.framer.afterMillisecond } := by
  unfold millisecond expireOverdue
  rw [(walkOn_same _).2.1]
  dsimp only
  rw [(expireGaps_links _).2, (expireTimers_same (countMillisecond s)).flr]
  rfl

theorem SameBesides.resetn {s t : State} (h : SameBesides s t) : t.resetn = s.resetn := by
  obtain ⟨-, resetn, -⟩ := h
  exact resetn

theorem SameBesides.partTime {s t : State} (h : SameBesides s t) : t.partTime = s.partTime := by
  obtain ⟨-, -, partTime, -⟩ := h
  exact partTime

theorem SameBesides.pending {s t : State} (h : SameBesides s t) : t.pending = s.pending := by
  obtain ⟨pending, -⟩ := h
  exact pending

/-- What else a millisecond leaves alone. -/
theorem millisecond_rest (s : State) : (millisecond s).params = s.params ∧ (millisecond s).resetn = s.resetn ∧ (millisecond s).zs = s.zs ∧
    (millisecond s).partTime = s.partTime + 1 ∧ (millisecond s).pending = s.pending := by
  have timers := expireTimers_same (countMillisecond s)
  obtain ⟨-, gapParams, gapResetn, gapZs, -, -, gapTime, gapPending, -⟩ := expireGaps_rest
    (((List.finRange 128).foldl expireSlot (countMillisecond s)).eq.held.foldl expireHeld
      ((List.finRange 128).foldl expireSlot (countMillisecond s)))
  unfold millisecond expireOverdue
  dsimp only
  obtain ⟨-, -, params, resetn, zs, -, -, -, time, pending, -⟩ := walkOn_same (expireGaps
    (((List.finRange 128).foldl expireSlot (countMillisecond s)).eq.held.foldl expireHeld
      ((List.finRange 128).foldl expireSlot (countMillisecond s))))
  rw [params, resetn, zs, time, pending, gapParams, gapResetn, gapZs, gapTime, gapPending, timers.params, timers.resetn, timers.zs,
    timers.partTime, timers.pending]
  exact ⟨rfl, rfl, rfl, rfl, rfl⟩

/-- In a millisecond the evaluation in flight, if any, walks on; its job stays (R80). -/
theorem millisecond_ev (s : State) :
    (millisecond s).ev = match s.ev.context with
      | none => s.ev
      | some c => { s.ev with context := some (walkZones s.zs (Config.walkPace s.paceIndex) c) } := by
  have timers := expireTimers_same (countMillisecond s)
  unfold millisecond expireOverdue
  dsimp only
  generalize hu : ((List.finRange 128).foldl expireSlot (countMillisecond s)).eq.held.foldl expireHeld
      ((List.finRange 128).foldl expireSlot (countMillisecond s)) = u at *
  obtain ⟨gapEv, -, -, gapZs, -, -, -, -, gapPace⟩ := expireGaps_rest u
  obtain ⟨-, -, -, pace, zs, ev, -⟩ := timers
  have ev : (expireGaps u).ev = s.ev := gapEv.trans ev
  have zs : (expireGaps u).zs = s.zs := gapZs.trans zs
  have pace : (expireGaps u).paceIndex = s.paceIndex := gapPace.trans pace
  unfold walkOn
  rw [ev, zs, pace]
  cases s.ev.context <;> simp [ev]

theorem millisecond_jobs (s : State) :
    (millisecond s).ev.ofHostFix = s.ev.ofHostFix ∧ (millisecond s).ev.ofQuery = s.ev.ofQuery := by
  rw [millisecond_ev]
  unfold Evaluator.ofHostFix Evaluator.ofQuery
  cases busy : s.ev.context <;> simp [busy]

end Sys2Proof.Machine
end

section
/-! SUPPORT. Every step keeps the links within their rules (R134, R144, R146, R147, R149, R150, R163, R164, R173). -/

namespace Sys2Proof.Machine

set_option Elab.async false

/-! ### The parameters (R173) -/

/-- Every parameter is within its range. -/
def Params.allowed (p : Params) : Prop :=
  ∀ id v, p.value id = some v → paramAllows id.toNat v = true

/-- Only the three times can be out of range: the other parameters are as wide as their ranges. -/
theorem paramsAllowed_iff (p : Params) : p.allowed ↔
    (p.quietTime = 0 ∨ 100 ≤ p.quietTime ∧ p.quietTime ≤ 600000) ∧
    (p.retireTime = 0 ∨ 100 ≤ p.retireTime ∧ p.retireTime ≤ 3600000) ∧
    10 ≤ p.redeliverTime ∧ p.redeliverTime ≤ 60000 := by
  constructor
  · intro h
    have quiet := h 3 p.quietTime rfl
    have retire := h 4 p.retireTime rfl
    have redeliver := h 5 p.redeliverTime rfl
    exact ⟨by simpa [paramAllows] using quiet, by simpa [paramAllows] using retire, by simpa [paramAllows] using redeliver⟩
  · rintro ⟨quiet, retire, redeliver⟩ id v value
    unfold Params.value at value
    split at value <;> rename_i number <;> try cases value
    all_goals rw [number]
    · cases p.autoAdmit <;> rfl
    · have := p.minQuality.isLt
      simp only [paramAllows, decide_eq_true_eq]
      omega
    · simpa [paramAllows] using quiet
    · simpa [paramAllows] using retire
    · simpa [paramAllows] using redeliver
    · have := p.objEventPrio.isLt
      simp only [paramAllows, decide_eq_true_eq]
      omega
    · have := p.sysEventPrio.isLt
      simp only [paramAllows, decide_eq_true_eq]
      omega

theorem paramsAllowed_set {p q : Params} {id : Byte} {v : Nat} (h : p.allowed) (set : p.set id v = some q) : q.allowed := by
  rw [paramsAllowed_iff] at *
  unfold Params.set at set
  obtain ⟨quiet, retire, redeliver⟩ := h
  split at set
  all_goals try split at set
  all_goals cases set
  all_goals exact ⟨‹_›, ‹_›, ‹_›⟩

theorem paramsAllowed_reset : Params.reset.allowed := by
  rw [paramsAllowed_iff]
  decide

/-! ### The feed link (R163, R164) -/

/-- The Fix Queue is within its 32 entries and FHOLD follows its level. -/
structure FeedFit (running : Bool) (f : FeedLink) : Prop where
  size : f.queue.length ≤ 32
  hold : running = true → (28 ≤ f.queue.length → f.fhold = true) ∧ (f.queue.length ≤ 16 → f.fhold = false)

theorem feedFit_settle {running : Bool} {f : FeedLink} (size : f.queue.length ≤ 32) : FeedFit running f.settle :=
  ⟨size, fun _ => by
    unfold FeedLink.settle
    refine ⟨fun high => ?_, fun low => ?_⟩
    · exact if_pos high
    · have low : f.queue.length ≤ 16 := low
      show (if 28 ≤ f.queue.length then true else if f.queue.length ≤ 16 then false else f.fhold) = false
      rw [if_neg (by omega), if_pos low]⟩

/-! ### The host link (R144, R146, R147, R149, R150) -/

/-- The reply queue, the deferred slots and HHOLD, given which evaluation is in flight. -/
structure HostFit (running ofFix ofQuery : Bool) (h : HostLink) : Prop where
  size : h.replies.length ≤ 6
  held : ∀ d, (h.heldReply d).isSome = true → h.replies.length = 6
  order : h.heldOrder.Nodup
  listed : ∀ d, d ∈ h.heldOrder ↔ (h.heldReply d).isSome = true
  fix : (h.grantedTag .fix).isSome = ofFix
  query : (h.grantedTag .query).isSome = ofQuery
  tags : ∀ tag, h.fixSlot.tag? = some tag → h.querySlot.tag? ≠ some tag
  hold : running = true → (h.freeEntries < 2 → h.hhold = true) ∧ (4 ≤ h.freeEntries → h.hhold = false)

/-- HHOLD settled to the free entries (R150). -/
theorem settle_hold (h : HostLink) :
    (h.settle.freeEntries < 2 → h.settle.hhold = true) ∧ (4 ≤ h.settle.freeEntries → h.settle.hhold = false) := by
  show (h.freeEntries < 2 → (if h.freeEntries < 2 then true else if 4 ≤ h.freeEntries then false else h.hhold) = true) ∧
    (4 ≤ h.freeEntries → (if h.freeEntries < 2 then true else if 4 ≤ h.freeEntries then false else h.hhold) = false)
  refine ⟨fun few => if_pos few, fun many => ?_⟩
  rw [if_neg (by omega), if_pos many]

section Host

variable {running ofFix ofQuery : Bool} {h : HostLink}

/-- With an entry free no reply is held (R146, R149). -/
theorem HostFit.none_held (fit : HostFit running ofFix ofQuery h) (room : h.replies.length < 6) (d : DeferredSlot) : h.heldReply d = none := by
  by_contra some_held
  have := fit.held d (Option.isSome_iff_ne_none.2 some_held)
  omega

theorem HostFit.reply (fit : HostFit running ofFix ofQuery h) (room : h.replies.length < 6) (r : Reply) (fresh dropped : Bool) :
    HostFit running ofFix ofQuery (HostLink.settle { h with replies := h.replies ++ [r], fresh := fresh, dropped := dropped }) := by
  have size : (h.replies ++ [r]).length = h.replies.length + 1 := by simp
  refine ⟨?_, fun d some_held => ?_, fit.order, fit.listed, fit.fix, fit.query, fit.tags, fun _ => settle_hold _⟩
  · show (h.replies ++ [r]).length ≤ 6
    omega
  · have none : h.heldReply d = none := fit.none_held room d
    have some_held : (h.heldReply d).isSome = true := some_held
    simp [none] at some_held

/-- Each slot has one of its states: GRANTED with no held reply, and so on (R145, R146). -/
theorem heldReply_of_granted {d : DeferredSlot} {tag : Byte} (granted : h.grantedTag d = some tag) : h.heldReply d = none := by
  cases d
  · cases slot : h.fixSlot <;> simp [HostLink.grantedTag, HostLink.heldReply, slot] at *
  · cases slot : h.querySlot <;> simp [HostLink.grantedTag, HostLink.heldReply, slot] at *

/-- The slot of a request in evaluation becomes EMPTY (R146). -/
theorem HostFit.emptied (fit : HostFit running ofFix ofQuery h) {d : DeferredSlot} {tag : Byte} (granted : h.grantedTag d = some tag) :
    HostFit running (ofFix && d != .fix) (ofQuery && d != .query) (h.emptySlot d) := by
  have none := heldReply_of_granted granted
  have absent : d ∉ h.heldOrder := fun m => by simp [(fit.listed d), none] at m
  cases d with
  | fix =>
    refine ⟨fit.size, fun d => ?_, fit.order, fun d => ?_, by simp [HostLink.emptySlot, HostLink.grantedTag], ?_, ?_, fit.hold⟩
    · cases d with
      | fix => simp [HostLink.emptySlot, HostLink.heldReply]
      | query => exact fit.held .query
    · cases d with
      | fix => exact ⟨fun m => absurd m absent, fun some_held => by simp [HostLink.emptySlot, HostLink.heldReply] at some_held⟩
      | query => exact fit.listed .query
    · exact fit.query.trans (by simp)
    · simp [HostLink.emptySlot, Deferred.tag?]
  | query =>
    refine ⟨fit.size, fun d => ?_, fit.order, fun d => ?_, ?_, by simp [HostLink.emptySlot, HostLink.grantedTag], ?_, fit.hold⟩
    · cases d with
      | fix => exact fit.held .fix
      | query => simp [HostLink.emptySlot, HostLink.heldReply]
    · cases d with
      | fix => exact fit.listed .fix
      | query => exact ⟨fun m => absurd m absent, fun some_held => by simp [HostLink.emptySlot, HostLink.heldReply] at some_held⟩
    · exact fit.fix.trans (by simp)
    · simp [HostLink.emptySlot, Deferred.tag?]

/-- The reply of a request in evaluation is held, behind those held before (R146, R147). -/
theorem HostFit.holds (fit : HostFit running ofFix ofQuery h) {d : DeferredSlot} {tag : Byte} (granted : h.grantedTag d = some tag)
    (full : 6 ≤ h.replies.length) (r : Result) (b : List Byte) :
    HostFit running (ofFix && d != .fix) (ofQuery && d != .query) (h.holdReply d tag r b) := by
  have none := heldReply_of_granted granted
  have absent : d ∉ h.heldOrder := fun m => by simp [(fit.listed d), none] at m
  have order : (h.heldOrder ++ [d]).Nodup := by
    rw [List.nodup_append]
    exact ⟨fit.order, by simp, fun a ha b hb same => absent (by rwa [← List.mem_singleton.1 hb, ← same])⟩
  have six : h.replies.length = 6 := le_antisymm fit.size full
  cases d with
  | fix =>
    have tag_fix : h.fixSlot.tag? = some tag := by
      cases slot : h.fixSlot <;> simp [HostLink.grantedTag, slot, Deferred.tag?] at granted ⊢
      exact granted
    refine ⟨fit.size, fun _ _ => six, order, fun d => ?_, by simp [HostLink.holdReply, HostLink.grantedTag], ?_, ?_, fit.hold⟩
    · cases d with
      | fix => simp [HostLink.holdReply, HostLink.heldReply]
      | query => exact (by simp [HostLink.holdReply] : _ ↔ DeferredSlot.query ∈ h.heldOrder).trans (fit.listed .query)
    · exact fit.query.trans (by simp)
    · exact fun tag' same => fit.tags tag' (tag_fix.trans same)
  | query =>
    have tag_query : h.querySlot.tag? = some tag := by
      cases slot : h.querySlot <;> simp [HostLink.grantedTag, slot, Deferred.tag?] at granted ⊢
      exact granted
    refine ⟨fit.size, fun _ _ => six, order, fun d => ?_, ?_, by simp [HostLink.holdReply, HostLink.grantedTag], ?_, fit.hold⟩
    · cases d with
      | fix => exact (by simp [HostLink.holdReply] : _ ↔ DeferredSlot.fix ∈ h.heldOrder).trans (fit.listed .fix)
      | query => simp [HostLink.holdReply, HostLink.heldReply]
    · exact fit.fix.trans (by simp)
    · exact fun tag' own same => fit.tags tag' own (tag_query.trans same)

end Host

/-- The end of a deferred request's evaluation (R146). -/
theorem hostFit_finish {running ofFix ofQuery : Bool} {s : State} (fit : HostFit running ofFix ofQuery s.hlc) {d : DeferredSlot}
    {tag : Byte} (granted : s.hlc.grantedTag d = some tag) (r : Result) (b : List Byte) :
    HostFit running (ofFix && d != .fix) (ofQuery && d != .query) (finishDeferred d r b s).hlc := by
  rcases finishDeferred_cases d r b s with ⟨none, -⟩ | ⟨tag', granted', ⟨full, e⟩ | ⟨room, e⟩⟩
  · rw [granted] at none
    cases none
  · rw [e]
    exact fit.holds granted' full r b
  · rw [e]
    have emptied := fit.emptied granted
    have same : (s.hlc.emptySlot d).replies = s.hlc.replies := by cases d <;> rfl
    exact emptied.reply (by rw [same]; exact room) _ _ _

/-- A reply's departure: a held reply takes the freed entry, so an entry is free only when none is held (R147, R149). -/
theorem hostFit_departs {running ofFix ofQuery : Bool} {s : State} (fit : HostFit running ofFix ofQuery s.hlc) :
    HostFit running ofFix ofQuery (replyDeparts s).hlc := by
  unfold replyDeparts
  split
  · exact fit
  rename_i r rest replies
  have size := fit.size
  rw [replies, List.length_cons] at size
  unfold releaseHeldReply
  split
  · rename_i nobody
    have nobody : s.hlc.heldOrder = [] := nobody
    refine ⟨show rest.length ≤ 6 by omega, fun d some_held => ?_, fit.order, fit.listed, fit.fix, fit.query, fit.tags, fun _ => settle_hold _⟩
    have listed := (fit.listed d).2 some_held
    simp [nobody] at listed
  rename_i d more waits
  have waits : s.hlc.heldOrder = d :: more := waits
  have mine : (s.hlc.heldReply d).isSome = true := (fit.listed d).1 (by simp [waits])
  have five : rest.length = 5 := by
    have six := fit.held d mine
    rw [replies, List.length_cons] at six
    omega
  have order := fit.order
  rw [waits, List.nodup_cons] at order
  split
  · rename_i nothing
    have nothing : s.hlc.heldReply d = none := nothing
    simp [nothing] at mine
  rename_i tag result body _
  have entry (x : Reply) : (rest ++ [x]).length = 6 := by simp [five]
  cases d with
  | fix =>
    have slot : (s.hlc.grantedTag .fix).isSome = false := by
      cases slot : s.hlc.fixSlot <;> simp [HostLink.grantedTag, HostLink.heldReply, slot] at mine ⊢
    refine ⟨(entry _).le, fun _ _ => entry _, order.2, fun d => ?_, ?_, fit.query, ?_, fun _ => settle_hold _⟩
    · cases d with
      | fix => exact ⟨fun m => absurd m order.1, fun h => nomatch h⟩
      | query =>
        have listed := fit.listed .query
        rw [waits, List.mem_cons, or_iff_right (by simp)] at listed
        exact listed
    · exact (fit.fix.symm.trans slot).symm ▸ rfl
    · exact fun _ h => nomatch h
  | query =>
    have slot : (s.hlc.grantedTag .query).isSome = false := by
      cases slot : s.hlc.querySlot <;> simp [HostLink.grantedTag, HostLink.heldReply, slot] at mine ⊢
    refine ⟨(entry _).le, fun _ _ => entry _, order.2, fun d => ?_, fit.fix, ?_, ?_, fun _ => settle_hold _⟩
    · cases d with
      | fix =>
        have listed := fit.listed .fix
        rw [waits, List.mem_cons, or_iff_right (by simp)] at listed
        exact listed
      | query => exact ⟨fun m => absurd m order.1, fun h => nomatch h⟩
    · exact (fit.query.symm.trans slot).symm ▸ rfl
    · exact fun _ _ h => nomatch h

/-! ### Every move, every millisecond -/

/-- The links and the parameters, but for the receivers. -/
structure LinksFit (s : State) : Prop where
  host : HostFit s.resetn s.ev.ofHostFix s.ev.ofQuery s.hlc
  feed : FeedFit s.resetn s.flr
  params : s.params.allowed

theorem linksSound_iff (s : State) : LinksSound s ↔ LinksFit s ∧ s.hlc.framer.sound ∧ s.flr.framer.sound := by
  constructor
  · rintro ⟨size, held, order, listed, fix, query, tags, hold, feedSize, feedHold, host, feed, params⟩
    exact ⟨⟨⟨size, held, order, listed, fix, query, tags, hold⟩, ⟨feedSize, feedHold⟩, params⟩, host, feed⟩
  · rintro ⟨⟨⟨size, held, order, listed, fix, query, tags, hold⟩, ⟨feedSize, feedHold⟩, params⟩, host, feed⟩
    exact ⟨size, held, order, listed, fix, query, tags, hold, feedSize, feedHold, host, feed, params⟩

/-- What leaves the links, the Evaluator's job and the parameters alone. -/
theorem linksFit_same {s t : State} (h : LinksFit s) (hlc : t.hlc = s.hlc) (flr : t.flr = s.flr) (ev : t.ev.context = s.ev.context)
    (params : t.params = s.params) (resetn : t.resetn = s.resetn) : LinksFit t := by
  have fix : t.ev.ofHostFix = s.ev.ofHostFix := by unfold Evaluator.ofHostFix; rw [ev]
  have query : t.ev.ofQuery = s.ev.ofQuery := by unfold Evaluator.ofQuery; rw [ev]
  refine ⟨?_, ?_, ?_⟩
  · rw [resetn, fix, query, hlc]
    exact h.host
  · rw [resetn, flr]
    exact h.feed
  · rw [params]
    exact h.params

theorem linksFit_reporter {s t : State} (h : LinksFit s) (same : SameBesides s t) : LinksFit t :=
  linksFit_same h same.hlc same.flr (congrArg _ same.ev) same.params same.resetn

/-- At most one deferred request is in evaluation: the jobs of the two slots differ (R145). -/
theorem jobs_differ (ev : Evaluator) : ev.ofHostFix = true → ev.ofQuery = false := by
  unfold Evaluator.ofHostFix Evaluator.ofQuery
  split
  · split <;> simp_all
  · simp

theorem jobs_of_idle {ev : Evaluator} (idle : ev.context = none) : ev.ofHostFix = false ∧ ev.ofQuery = false := by
  simp [Evaluator.ofHostFix, Evaluator.ofQuery, idle]

theorem addVoid_jobs (ev : Evaluator) (changed : ZoneSet) :
    (ev.addVoid changed).ofHostFix = ev.ofHostFix ∧ (ev.addVoid changed).ofQuery = ev.ofQuery := by
  unfold Evaluator.ofHostFix Evaluator.ofQuery Evaluator.addVoid
  cases ev.context <;> simp

theorem tags_free {s : State} {tag : Byte} (free : s.hlc.tagInUse tag = false) :
    s.hlc.fixSlot.tag? ≠ some tag ∧ s.hlc.querySlot.tag? ≠ some tag := by
  have none_holds := mt tagInUse_iff.2 (by simp [free] : ¬ s.hlc.tagInUse tag = true)
  exact not_or.1 none_holds

theorem queryRefusal_passes {tag cls : Byte} {s : State} (passes : queryRefusal tag cls s = none) :
    s.hlc.tagInUse tag = false ∧ s.hlc.querySlot = .empty := by
  unfold queryRefusal at passes
  split at passes
  · cases passes
  split at passes
  · cases passes
  split at passes
  · cases passes
  rename_i fresh free
  exact ⟨by simpa using fresh, by simpa [Deferred.occupied_iff] using free⟩

theorem postFixRefusal_passes {tag : Byte} {f : Fix} {s : State} (passes : postFixRefusal tag f s = none) :
    s.hlc.tagInUse tag = false ∧ s.hlc.fixSlot = .empty := by
  unfold postFixRefusal at passes
  split at passes
  · cases passes
  split at passes
  · cases passes
  split at passes
  · cases passes
  split at passes
  · cases passes
  rename_i fresh free
  exact ⟨by simpa using fresh, by simpa [Deferred.occupied_iff] using free⟩

section Slots

variable {running ofFix ofQuery : Bool} {h : HostLink}

/-- The fix slot takes a request, or its request is granted; a reply is held in neither state (R145). -/
theorem HostFit.fixSlot (fit : HostFit running ofFix ofQuery h) {slot : Deferred Fix} {ofFix' : Bool}
    (not_held : ∀ tag r b, h.fixSlot ≠ .replyHeld tag r b) (not_held' : ∀ tag r b, slot ≠ .replyHeld tag r b)
    (granted : (({ h with fixSlot := slot } : HostLink).grantedTag .fix).isSome = ofFix')
    (tags : ∀ tag, slot.tag? = some tag → h.querySlot.tag? ≠ some tag) : HostFit running ofFix' ofQuery { h with fixSlot := slot } := by
  have unheld : h.heldReply .fix = none := by
    cases old : h.fixSlot <;> simp [HostLink.heldReply, old] at not_held ⊢
  have unheld' : ({ h with fixSlot := slot } : HostLink).heldReply .fix = none := by
    cases slot <;> simp_all [HostLink.heldReply]
  refine ⟨fit.size, fun d => ?_, fit.order, fun d => ?_, granted, fit.query, tags, fit.hold⟩
  · cases d with
    | fix => simp [unheld']
    | query => exact fit.held .query
  · cases d with
    | fix => rw [unheld', ← unheld]; exact fit.listed .fix
    | query => exact fit.listed .query

theorem HostFit.querySlot (fit : HostFit running ofFix ofQuery h) {slot : Deferred Query} {ofQuery' : Bool}
    (not_held : ∀ tag r b, h.querySlot ≠ .replyHeld tag r b) (not_held' : ∀ tag r b, slot ≠ .replyHeld tag r b)
    (granted : (({ h with querySlot := slot } : HostLink).grantedTag .query).isSome = ofQuery')
    (tags : ∀ tag, h.fixSlot.tag? = some tag → slot.tag? ≠ some tag) : HostFit running ofFix ofQuery' { h with querySlot := slot } := by
  have unheld : h.heldReply .query = none := by
    cases old : h.querySlot <;> simp [HostLink.heldReply, old] at not_held ⊢
  have unheld' : ({ h with querySlot := slot } : HostLink).heldReply .query = none := by
    cases slot <;> simp_all [HostLink.heldReply]
  refine ⟨fit.size, fun d => ?_, fit.order, fun d => ?_, fit.fix, granted, tags, fit.hold⟩
  · cases d with
    | fix => exact fit.held .fix
    | query => simp [unheld']
  · cases d with
    | fix => exact fit.listed .fix
    | query => rw [unheld', ← unheld]; exact fit.listed .query

/-- Both deferred slots EMPTY and no evaluation in flight, as after a reset or a restart (R153, R179). -/
theorem hostFit_fresh (h : HostLink) (size : h.replies.length ≤ 6) (fix : h.fixSlot = .empty) (query : h.querySlot = .empty)
    (held : h.heldOrder = []) (hold : (h.freeEntries < 2 → h.hhold = true) ∧ (4 ≤ h.freeEntries → h.hhold = false)) :
    HostFit running false false h := by
  have none (d : DeferredSlot) : h.heldReply d = none := by cases d <;> simp [HostLink.heldReply, fix, query]
  exact ⟨size, by simp [none], by simp [held], by simp [held, none], by simp [HostLink.grantedTag, fix], by simp [HostLink.grantedTag, query],
    by simp [fix, Deferred.tag?], fun _ => hold⟩

end Slots

/-- The evaluation of a deferred request ends, and the Evaluator is idle (R89, R146). -/
theorem linksFit_ends {s : State} {ofFix ofQuery : Bool} (host : HostFit s.resetn ofFix ofQuery s.hlc) (feed : FeedFit s.resetn s.flr)
    (params : s.params.allowed) {d : DeferredSlot} {tag : Byte} (granted : s.hlc.grantedTag d = some tag)
    (alone : (ofFix && d != .fix) = false ∧ (ofQuery && d != .query) = false) (r : Result) (b : List Byte) :
    LinksFit (becomeIdle (finishDeferred d r b s)) := by
  have ends := hostFit_finish host granted r b
  rw [alone.1, alone.2] at ends
  have keeps : (finishDeferred d r b s).resetn = s.resetn ∧ (finishDeferred d r b s).params = s.params := by
    rcases finishDeferred_cases d r b s with ⟨-, e⟩ | ⟨tag', -, ⟨-, e⟩ | ⟨-, e⟩⟩ <;> rw [e] <;> exact ⟨rfl, rfl⟩
  refine ⟨?_, ?_, ?_⟩
  · show HostFit (finishDeferred d r b s).resetn false false (finishDeferred d r b s).hlc
    rw [keeps.1]
    exact ends
  · show FeedFit (finishDeferred d r b s).resetn (finishDeferred d r b s).flr
    rw [keeps.1, finishDeferred_flr]
    exact feed
  · show (finishDeferred d r b s).params.allowed
    rw [keeps.2]
    exact params

theorem linksFit_reset (hrate frate : Bool) : LinksFit (State.afterReset hrate frate) :=
  ⟨hostFit_fresh _ (Nat.zero_le 6) rfl rfl rfl (by simp [State.afterReset, HostLink.reset, HostLink.freeEntries]),
    ⟨Nat.zero_le 32, fun _ => ⟨(by simp [State.afterReset, FeedLink.reset]), fun _ => rfl⟩⟩, paramsAllowed_reset⟩

theorem linksFit_move {ok : Prop} (s t : State) (h : LinksFit s) (m : Move ok s t) : LinksFit t := by
  obtain ⟨host, feed, params⟩ := h
  cases m with
  | pinReset hrate frate =>
    obtain ⟨host, feed, params⟩ := linksFit_reset hrate frate
    exact ⟨host, feed, params⟩
  | resetnLow =>
    exact ⟨⟨host.size, host.held, host.order, host.listed, host.fix, host.query, host.tags, fun high => nomatch high⟩,
      ⟨feed.size, fun high => nomatch high⟩, params⟩
  | hostFramer f sound =>
    exact ⟨⟨host.size, host.held, host.order, host.listed, host.fix, host.query, host.tags, host.hold⟩, feed, params⟩
  | feedFramer f sound => exact ⟨host, ⟨feed.size, feed.hold⟩, params⟩
  | hostMarks drop n =>
    exact ⟨⟨host.size, host.held, host.order, host.listed, host.fix, host.query, host.tags, host.hold⟩, feed, params⟩
  | feedMarks m n => exact ⟨host, ⟨feed.size, feed.hold⟩, params⟩
  | reply type tag r body room => exact ⟨host.reply room _ _ _, feed, params⟩
  | departs =>
    have rest : (replyDeparts s).resetn = s.resetn ∧ (replyDeparts s).params = s.params := by
      unfold replyDeparts
      split
      · exact ⟨rfl, rfl⟩
      · unfold releaseHeldReply
        split
        · exact ⟨rfl, rfl⟩
        · split <;> exact ⟨rfl, rfl⟩
    have departs := hostFit_departs host
    refine ⟨?_, ?_, ?_⟩
    · rw [rest.1, replyDeparts_ev]
      exact departs
    · rw [rest.1, (replyDeparts_keeps s).1]
      exact feed
    · rw [rest.2]
      exact params
  | postFix tag f passes =>
    obtain ⟨fresh, empty⟩ := postFixRefusal_passes passes
    refine ⟨host.fixSlot (by simp [empty]) (by simp) ?_ fun tag' own => ?_, feed, params⟩
    · have granted := host.fix
      simp only [HostLink.grantedTag, empty] at granted
      exact granted
    · cases own
      exact (tags_free fresh).2
  | postQuery tag cls q passes =>
    obtain ⟨fresh, empty⟩ := queryRefusal_passes passes
    refine ⟨host.querySlot (by simp [empty]) (by simp) ?_ fun tag' other own => ?_, feed, params⟩
    · have granted := host.query
      simp only [HostLink.grantedTag, empty] at granted
      exact granted
    · cases own
      exact (tags_free fresh).1 other
  | setParam id v q allowed => exact ⟨host, feed, paramsAllowed_set params allowed⟩
  | restart =>
    exact ⟨hostFit_fresh _ host.size rfl rfl rfl (settle_hold _), ⟨Nat.zero_le 32, fun _ => ⟨fun full => absurd full (by simp [restartBlocks, FeedLink.restart, FeedLink.reset]), fun _ => rfl⟩⟩,
      paramsAllowed_reset⟩
  | commit closed => 
    refine linksFit_reporter (s := planTaken s) ⟨?_, feed, params⟩ (applyCommit_same s)
    have jobs := addVoid_jobs s.ev s.zs.changedSet
    show HostFit s.resetn (s.ev.addVoid s.zs.changedSet).ofHostFix (s.ev.addVoid s.zs.changedSet).ofQuery s.hlc
    rw [jobs.1, jobs.2]
    exact host
  | reconcile => exact linksFit_reporter ⟨host, feed, params⟩ (reconcile_same s)
  | retire i cause some_cause phase => exact linksFit_reporter ⟨host, feed, params⟩ (retireObject_same i cause s)
  | quiet i phase => exact linksFit_reporter (s := s.withSlots _) ⟨host, feed, params⟩ (freshGroup_same _ _ _)
  | write c i f holds => exact linksFit_reporter ⟨host, feed, params⟩ (writeCompletion_same c i f s)
  | release seq => exact linksFit_reporter (s := s.withEq _) ⟨host, feed, params⟩ (entryFreed_same (s.withEq _))
  | releaseLate seq => exact linksFit_reporter (s := s.withEq _) ⟨host, feed, params⟩ (entryFreed_same (s.withEq _))
  | redeliver x held => exact linksFit_reporter ⟨host, feed, params⟩ (redeliver_same x s)
  | expireHeld => exact linksFit_reporter ⟨host, feed, params⟩ (expireHeld_same _ s)
  | queueFix f named room => exact ⟨host, feedFit_settle (by simpa using room), params⟩
  | popFix f rest first =>
    have size := feed.size
    rw [first, List.length_cons] at size
    exact ⟨host, feedFit_settle (show rest.length ≤ 32 by omega), params⟩
  | openHostFix tag f i idle waits =>
    have noQuery := (jobs_of_idle idle).2
    rw [noQuery] at host
    exact ⟨host.fixSlot (by simp [waits]) (by simp) rfl fun tag' own => host.tags tag' (by rw [waits]; exact own), feed, params⟩
  | openQuery tag q idle waits =>
    have noFix := (jobs_of_idle idle).1
    rw [noFix] at host
    exact ⟨host.querySlot (by simp [waits]) (by simp) rfl fun tag' other own => host.tags tag' other (by rw [waits]; exact own), feed, params⟩
  | openFeedFix f i idle =>
    rw [(jobs_of_idle idle).1, (jobs_of_idle idle).2] at host
    exact ⟨host, feed, params⟩
  | refuseHostFix tag f r idle waits =>
    rw [(jobs_of_idle idle).1, (jobs_of_idle idle).2] at host
    have taken : HostFit s.resetn true false { s.hlc with fixSlot := .granted tag f } :=
      host.fixSlot (by simp [waits]) (by simp) rfl fun tag' own => host.tags tag' (by rw [waits]; exact own)
    exact linksFit_ends (s := s.withHlc { s.hlc with fixSlot := .granted tag f }) (d := .fix) (tag := tag) taken feed params rfl ⟨rfl, rfl⟩ r []
  | idle noHostFix noQuery =>
    rw [noHostFix, noQuery] at host
    exact ⟨host, feed, params⟩
  | endHostFix r body busy =>
    obtain ⟨tag, granted⟩ := Option.isSome_iff_exists.1 (host.fix.trans busy)
    exact linksFit_ends host feed params granted (by simp [jobs_differ _ busy]) r body
  | endQuery r body busy =>
    obtain ⟨tag, granted⟩ := Option.isSome_iff_exists.1 (host.query.trans busy)
    have noFix : s.ev.ofHostFix = false := by
      by_contra fix
      simp [jobs_differ s.ev (by simpa using fix)] at busy
    exact linksFit_ends host feed params granted (by simp [noFix]) r body
  | walk n c busy =>
    refine ⟨?_, feed, params⟩
    have jobs : ({ s.ev with context := some (walkZones s.zs n c) } : Evaluator).ofHostFix = s.ev.ofHostFix ∧
        ({ s.ev with context := some (walkZones s.zs n c) } : Evaluator).ofQuery = s.ev.ofQuery := by
      simp [Evaluator.ofHostFix, Evaluator.ofQuery, busy]
    show HostFit s.resetn (Evaluator.ofHostFix { s.ev with context := some (walkZones s.zs n c) }) (Evaluator.ofQuery { s.ev with context := some (walkZones s.zs n c) }) s.hlc
    rw [jobs.1, jobs.2]
    exact host
  | _ => exact ⟨host, feed, params⟩

/-- The receivers are sound (R136, R137). -/
def FramersFit (s : State) : Prop :=
  s.hlc.framer.sound ∧ s.flr.framer.sound

theorem finishDeferred_framer (d : DeferredSlot) (r : Result) (b : List Byte) (s : State) :
    (finishDeferred d r b s).hlc.framer = s.hlc.framer := by
  rcases finishDeferred_cases d r b s with ⟨-, e⟩ | ⟨tag, -, ⟨-, e⟩ | ⟨-, e⟩⟩ <;> rw [e]
  · cases d <;> rfl
  · cases d <;> rfl

theorem replyDeparts_framer (s : State) : (replyDeparts s).hlc.framer = s.hlc.framer := by
  unfold replyDeparts
  split
  · rfl
  · unfold releaseHeldReply
    split
    · rfl
    · rename_i d _ _
      split
      · rfl
      · cases d <;> rfl

theorem framersFit_same {s t : State} (h : FramersFit s) (host : t.hlc.framer = s.hlc.framer) (feed : t.flr = s.flr) : FramersFit t := by
  unfold FramersFit
  rw [host, feed]
  exact h

theorem framersFit_reporter {s t : State} (h : FramersFit s) (same : SameBesides s t) : FramersFit t :=
  framersFit_same h (by rw [same.hlc]) same.flr

theorem framersFit_ends {s : State} (h : FramersFit s) (d : DeferredSlot) (r : Result) (b : List Byte) :
    FramersFit (becomeIdle (finishDeferred d r b s)) :=
  framersFit_same h (finishDeferred_framer d r b s) (finishDeferred_flr d r b s)

theorem framersFit_move (s t : State) (h : FramersFit s) (m : Move True s t) : FramersFit t := by
  cases m with
  | pinReset hrate frate => exact ⟨trivial, trivial⟩
  | restart => exact ⟨trivial, trivial⟩
  | hostFramer f sound => exact ⟨sound trivial, h.2⟩
  | feedFramer f sound => exact ⟨h.1, sound trivial⟩
  | departs => exact framersFit_same h (replyDeparts_framer s) (replyDeparts_keeps s).1
  | commit closed => exact framersFit_reporter (s := planTaken s) h (applyCommit_same s)
  | reconcile => exact framersFit_reporter h (reconcile_same s)
  | retire i cause some_cause phase => exact framersFit_reporter h (retireObject_same i cause s)
  | quiet i phase => exact framersFit_reporter (s := s.withSlots _) h (freshGroup_same _ _ _)
  | write c i f holds => exact framersFit_reporter h (writeCompletion_same c i f s)
  | release seq => exact framersFit_reporter (s := s.withEq _) h (entryFreed_same (s.withEq _))
  | releaseLate seq => exact framersFit_reporter (s := s.withEq _) h (entryFreed_same (s.withEq _))
  | redeliver x held => exact framersFit_reporter h (redeliver_same x s)
  | expireHeld => exact framersFit_reporter h (expireHeld_same _ s)
  | refuseHostFix tag f r idle waits => exact framersFit_ends (s := s.withHlc { s.hlc with fixSlot := .granted tag f }) h .fix r []
  | endHostFix r body busy => exact framersFit_ends h .fix r body
  | endQuery r body busy => exact framersFit_ends h .query r body
  | _ => exact h

/-- A sound receiver is sound after a millisecond: a gap timer past 10 ms has gone (R1, R137, R158). -/
theorem afterMillisecond_sound {f : Framer} (h : f.sound) : f.afterMillisecond.sound := by
  unfold Framer.afterMillisecond
  cases f with
  | hunt => trivial
  | frame stored gap =>
    split
    · trivial
    · rename_i on_time
      have within : gap + 1 ≤ gapTime := by simpa [Framer.tick, Framer.gapOverdue] using on_time
      cases stored with
      | nil => exact within
      | cons len body => exact ⟨h.1, h.2.1, within⟩

theorem linksSound_millisecond {s : State} (h : LinksFit s ∧ FramersFit s) : LinksFit (millisecond s) ∧ FramersFit (millisecond s) := by
  obtain ⟨⟨host, feed, params⟩, hostFramer, feedFramer⟩ := h
  obtain ⟨params_eq, resetn, -⟩ := millisecond_rest s
  obtain ⟨fix, query⟩ := millisecond_jobs s
  refine ⟨⟨?_, ?_, ?_⟩, ?_, ?_⟩
  · rw [resetn, fix, query, millisecond_hlc]
    exact ⟨host.size, host.held, host.order, host.listed, host.fix, host.query, host.tags, host.hold⟩
  · rw [resetn, millisecond_flr]
    exact ⟨feed.size, feed.hold⟩
  · rw [params_eq]
    exact params
  · rw [millisecond_hlc]
    exact afterMillisecond_sound hostFramer
  · rw [millisecond_flr]
    exact afterMillisecond_sound feedFramer

/-- Settles O60: every move keeps the links and the parameters within their rules, and the receivers never hold a whole frame. -/
theorem stepsKeepTheLinksSound : Obligations.StepsKeepTheLinksSound := by
  intro s t sound stepped
  rw [linksSound_iff] at *
  exact step_keeps (ok := True) (P := fun s => LinksFit s ∧ FramersFit s) (fun _ => sound.2.1) (fun _ => sound.2.2)
    (fun s t h m => ⟨linksFit_move s t h.1 m, framersFit_move s t h.2 m⟩)
    (fun rest h => ⟨⟨h.1.host, h.1.feed, h.1.params⟩, h.2⟩) linksSound_millisecond sound stepped

end Sys2Proof.Machine
end

section
/-! SUPPORT. Steps, resets and the pins. -/

namespace Sys2Proof.Machine

set_option Elab.async false

/-- Settles O1. -/
theorem stepTakesTheFrontCommand : Obligations.StepTakesTheFrontCommand := by
  intro c rest s front
  simp only [step, front]

/-- Every command but the pin events acts only while RESETn is high, and answers a next state (R181). -/
theorem exec_whenRunning (c : Instr) (reset : ∀ h f, c ≠ .pinReset h f) (low : c ≠ .resetnLow) :
    ∃ act : State → State, ∀ s, exec c s = .next (whenRunning act s) := by
  cases frame : hostFrameOf c with
  | some f =>
    obtain ⟨type, tag, p⟩ := f
    exact ⟨_, exec_hostFrame frame⟩
  | none =>
    cases c with
    | pinReset h f => exact absurd rfl (reset h f)
    | resetnLow => exact absurd rfl low
    | hostFrameCrcFail bytes => exact ⟨_, fun _ => rfl⟩
    | hostGapTimeout => exact ⟨_, fun _ => rfl⟩
    | hostFramingFault => exact ⟨_, fun _ => rfl⟩
    | replySent => exact ⟨_, fun _ => rfl⟩
    | fixBatch tag fixes => exact ⟨_, fun _ => rfl⟩
    | feedFrameDiscard type tag p => exact ⟨_, fun _ => rfl⟩
    | feedFrameCrcFail bytes => exact ⟨_, fun _ => rfl⟩
    | feedGapTimeout => exact ⟨_, fun _ => rfl⟩
    | feedFramingFault => exact ⟨_, fun _ => rfl⟩
    | arbiterGrant => exact ⟨_, fun _ => rfl⟩
    | fixCompletion => exact ⟨_, fun _ => rfl⟩
    | queryCompletion => exact ⟨_, fun _ => rfl⟩
    | quietExpiry i => exact ⟨_, fun _ => rfl⟩
    | retireExpiry i => exact ⟨_, fun _ => rfl⟩
    | redeliveryExpiry seq => exact ⟨_, fun _ => rfl⟩
    | hostFrameStart => exact ⟨_, fun _ => rfl⟩
    | hostBadLen len => exact ⟨_, fun _ => rfl⟩
    | feedFrameStart => exact ⟨_, fun _ => rfl⟩
    | feedBadLen len => exact ⟨_, fun _ => rfl⟩
    | _ => simp [hostFrameOf] at frame

/-! ### The model's own fields -/

/-- The waiting commands and the index of free values. -/
def OwnFields (s t : State) : Prop :=
  t.pending = s.pending ∧ t.paceIndex = s.paceIndex

theorem SameBesides.own {s t : State} (h : SameBesides s t) : OwnFields s t := by
  obtain ⟨pending, -, -, pace, -⟩ := h
  exact ⟨pending, pace⟩

theorem finishDeferred_own (d : DeferredSlot) (r : Result) (b : List Byte) (s : State) : OwnFields s (finishDeferred d r b s) := by
  rcases finishDeferred_cases d r b s with ⟨-, e⟩ | ⟨tag, -, ⟨-, e⟩ | ⟨-, e⟩⟩ <;> rw [e] <;> exact ⟨rfl, rfl⟩

theorem replyDeparts_own (s : State) : OwnFields s (replyDeparts s) := by
  unfold replyDeparts
  split
  · exact ⟨rfl, rfl⟩
  · unfold releaseHeldReply
    split
    · exact ⟨rfl, rfl⟩
    · split <;> exact ⟨rfl, rfl⟩

/-- No move touches the model's own fields. -/
theorem Move.own {ok : Prop} {s t : State} (m : Move ok s t) : OwnFields s t := by
  cases m with
  | departs => exact replyDeparts_own s
  | commit closed => exact (applyCommit_same s).own
  | reconcile => exact (reconcile_same s).own
  | retire i cause some_cause phase => exact (retireObject_same i cause s).own
  | quiet i phase => exact (freshGroup_same i _ (s.withSlots _)).own
  | write c i f holds => exact (writeCompletion_same c i f s).own
  | release seq => exact (entryFreed_same (s.withEq _)).own
  | releaseLate seq => exact (entryFreed_same (s.withEq _)).own
  | redeliver x held => exact (redeliver_same x s).own
  | expireHeld => exact (expireHeld_same _ s).own
  | refuseHostFix tag f r idle waits => exact finishDeferred_own .fix r [] (s.withHlc _)
  | endHostFix r body busy => exact finishDeferred_own .fix r body s
  | endQuery r body busy => exact finishDeferred_own .query r body s
  | _ => exact ⟨rfl, rfl⟩

theorem exec_own {c : Instr} {s t : State} (h : exec c s = .next t) : OwnFields s t :=
  (exec_moves (ok := False) c (by simp) (by simp) h).keeps (P := OwnFields s)
    (fun _ _ kept move => ⟨move.own.1.trans kept.1, move.own.2.trans kept.2⟩) ⟨rfl, rfl⟩

/-- Settles O3: every command acts on the state while RESETn is high, by moves that leave the model's own fields. -/
theorem everyCommandAnswers : Obligations.EveryCommandAnswers := by
  intro c s
  have answers : ∃ t, exec c s = .next t := by
    by_cases reset : ∃ h f, c = .pinReset h f
    · obtain ⟨h, f, rfl⟩ := reset
      exact ⟨_, rfl⟩
    · by_cases low : c = .resetnLow
      · subst low
        exact ⟨_, rfl⟩
      · obtain ⟨act, runs⟩ := exec_whenRunning c (fun h f same => reset ⟨h, f, same⟩) low
        exact ⟨_, runs s⟩
  obtain ⟨t, next⟩ := answers
  exact ⟨t, next, exec_own next⟩

/-! ### Resets and the pins (R181) -/

/-- While RESETn is low every output is at its idle level. -/
theorem idle_outputs {s : State} (low : s.resetn = false) :
    s.attn = false ∧ s.hholdPin = false ∧ s.fholdPin = false ∧ s.htx = none := by
  simp [State.attn, State.hholdPin, State.fholdPin, State.htx, low]

/-- Settles O4. -/
theorem heldInReset : Obligations.HeldInReset := by
  refine fun s low => ⟨fun c reset notLow => ?_, idle_outputs low⟩
  obtain ⟨act, runs⟩ := exec_whenRunning c reset notLow
  rw [runs, whenRunning_low act low]

/-- Settles O5. -/
theorem resetnLowHolds : Obligations.ResetnLowHolds := fun _ =>
  ⟨_, rfl, rfl, idle_outputs rfl⟩

/-- Settles O6. -/
theorem pinResetStartsThePart : Obligations.PinResetStartsThePart := by
  intro hrate frate s
  refine ⟨_, exec_pinReset hrate frate s, rfl, rfl, rfl, rfl, fun z => ⟨Table.get_fill _ z, Table.get_fill _ z⟩, rfl, reset_freeList, rfl,
    fun b => Table.get_fill _ b, fun i => Table.get_fill _ i, rfl, rfl, rfl, ?_, ?_, rfl, State.attn_of_disarmed rfl, rfl⟩
  · cases hrate <;> rfl
  · cases frate <;> rfl

/-- Settles O54: each invariant's proof that every step keeps it has the case of a reset. -/
theorem invariantsHoldAtReset : Obligations.InvariantsHoldAtReset := by
  have store := (storeAgrees_iff State.reset).2 storeAgrees_reset
  refine ⟨store.1, store.2, countersObey_reset rfl fun i => Table.get_fill _ i, ?_, (queueSound_iff _).2 (queueLoose_reset 0),
    eventsWellMade_reset rfl fun i => Table.get_fill _ i, ?_⟩
  · rw [objectsSound_iff]
    exact ⟨tableFit_reset (fun i => Table.get_fill _ i) rfl, fun f hf => absurd hf List.not_mem_nil, fun _ _ w => nomatch w⟩
  · rw [linksSound_iff]
    exact ⟨linksFit_reset false false, trivial, trivial⟩

end Sys2Proof.Machine
end

section
/-! SUPPORT. Frames at the two receivers (R134 to R138, R157 to R159). -/

namespace Sys2Proof.Machine

set_option Elab.async false

/-! ### A whole frame, from the bytes that are still to come -/

/-- A beginning of a frame of good LEN is a frame in reception that the line can have led to. -/
theorem opened_of_beginning {stored rest : List Byte} (gap : Nat) (len : goodLen (byteAt (stored ++ rest) 0) = true) :
    (Framer.frame stored gap).opened := by
  cases stored with
  | nil => exact show (251 : Nat) ≤ 252 by omega
  | cons b body =>
    have := goodLen_le (show goodLen b = true from len)
    simp only [Framer.opened, Framer.credit]
    omega

/-- The check at a frame's last byte: the frame, or a CRC failure with the stored bytes taken again in HUNT (R138, R159). -/
def Framer.checked (whole : List Byte) : Framer × List LinkItem :=
  if crcHolds whole then (.hunt, [itemOf whole])
  else ((Framer.hunt.receive whole).1, .crcFail :: (Framer.hunt.receive whole).2)

theorem receive_rest {whole : List Byte} (len : goodLen (byteAt whole 0) = true) (size : whole.length = (byteAt whole 0).toNat + 3)
    (rest : List Byte) (some_left : rest ≠ []) (stored : List Byte) (gap : Nat) (split : stored ++ rest = whole) :
    (Framer.frame stored gap).receive rest = Framer.checked whole := by
  induction rest generalizing stored gap with
  | nil => exact absurd rfl some_left
  | cons b rest ih =>
    have opened : (Framer.frame stored gap).opened := opened_of_beginning (rest := b :: rest) gap (by rw [split]; exact len)
    have lengths := congrArg List.length split
    simp only [List.length_append, List.length_cons] at lengths
    have good := len
    simp only [goodLen, Bool.and_eq_true, decide_eq_true_eq] at good
    have next : (stored ++ [b]) ++ rest = whole := by simpa using split
    cases stored with
    | nil =>
      have lenByte : goodLen b = true := by rw [← split] at len; exact len
      have left : rest ≠ [] := by rintro rfl; simp at lengths; omega
      rw [Framer.receive_cons opened]
      simp only [Framer.byte, lenByte, if_true, List.nil_append]
      exact ih left [b] 0 next
    | cons l body =>
      have lenByte : byteAt whole 0 = l := by rw [← split]; rfl
      rw [lenByte] at size
      simp only [List.length_cons] at lengths
      have stores : (l :: body ++ [b]).length = body.length + 2 := by simp
      rw [Framer.receive_cons opened]
      simp only [Framer.byte, stores]
      by_cases last : rest = []
      · subst last
        have complete : l :: body ++ [b] = whole := by simpa using next
        rw [if_neg (by simp at lengths; omega), complete]
        unfold Framer.checked
        split <;> simp
      · have more : 0 < rest.length := List.length_pos_iff.2 last
        rw [if_pos (by omega)]
        exact ih last (l :: body ++ [b]) 0 next

theorem hunt_opened : Framer.hunt.opened :=
  Nat.zero_le 252

/-- A frame's start byte in HUNT opens it (R136). -/
theorem receive_start (bytes : List Byte) : Framer.hunt.receive (startByte :: bytes) = (Framer.frame [] 0).receive bytes := by
  rw [Framer.receive_cons hunt_opened]
  simp [Framer.byte]

/-- What a receiver that expects a frame makes of the bytes still to come. -/
theorem receive_remaining {f : Framer} {whole : List Byte} (expects : f.expects whole = true) (len : goodLen (byteAt whole 0) = true)
    (size : whole.length = (byteAt whole 0).toNat + 3) : f.receive (f.remaining whole) = Framer.checked whole := by
  have some_bytes : whole ≠ [] := by rintro rfl; simp at size
  cases f with
  | hunt => exact (receive_start whole).trans (receive_rest len size whole some_bytes [] 0 rfl)
  | frame stored gap =>
    obtain ⟨begins, short⟩ : stored.isPrefixOf whole = true ∧ stored.length < whole.length := by simpa [Framer.expects] using expects
    rw [List.isPrefixOf_iff_prefix] at begins
    obtain ⟨rest, split⟩ := begins
    have left : whole.drop stored.length = rest := by rw [← split]; simp
    have remaining : (Framer.frame stored gap).remaining whole = rest := by simp [Framer.remaining, expects, left]
    rw [remaining]
    refine receive_rest len size rest ?_ stored gap split
    rintro rfl
    rw [← split] at short
    simp at short

/-! ### The encoder's frame (R134, R135) -/

section Encoder

variable {p : List Byte} (type tag : Byte) (short : p.length ≤ 246)

include short

theorem frameTail_len : (byteAt (frameTail type tag p) 0).toNat = p.length + 2 := by
  have len : byteAt (frameTail type tag p) 0 = BitVec.ofNat 8 (p.length + 2) := rfl
  rw [len, BitVec.toNat_ofNat, Nat.mod_eq_of_lt (by omega)]

theorem frameTail_goodLen : goodLen (byteAt (frameTail type tag p) 0) = true := by
  simp only [goodLen, frameTail_len type tag short, Bool.and_eq_true, decide_eq_true_eq]
  omega

omit short in
theorem covered_length : (covered type tag p).length = p.length + 3 := by
  simp [covered]

theorem frameTail_length : (frameTail type tag p).length = (byteAt (frameTail type tag p) 0).toNat + 3 := by
  rw [frameTail_len type tag short, frameTail, List.length_append, covered_length, beBytes_length]

theorem frameTail_covered : (frameTail type tag p).take ((byteAt (frameTail type tag p) 0).toNat + 1) = covered type tag p ∧
    (frameTail type tag p).drop ((byteAt (frameTail type tag p) 0).toNat + 1) = beBytes 2 (crc16 (covered type tag p)).toNat := by
  rw [frameTail_len type tag short, ← covered_length type tag]
  exact ⟨List.take_left, List.drop_left⟩

theorem frameTail_crc : crcHolds (frameTail type tag p) = true := by
  obtain ⟨covers, check⟩ := frameTail_covered type tag short
  simp only [crcHolds, covers, check, List.take_of_length_le (beBytes_length 2 _).le, beNat_beBytes_mod, beq_iff_eq]
  exact Nat.mod_eq_of_lt (crc16 _).isLt

theorem frameTail_item : itemOf (frameTail type tag p) = .frame type tag p := by
  obtain ⟨covers, -⟩ := frameTail_covered type tag short
  simp only [itemOf, covers]
  rfl

end Encoder

/-- Settles O13: byte after byte the stored bytes stay a beginning of the frame, and at its last byte the check holds. -/
theorem framesAreFound : Obligations.FramesAreFound := by
  intro type tag p f short expects
  rw [receive_remaining expects (frameTail_goodLen type tag short) (frameTail_length type tag short), Framer.checked,
    if_pos (frameTail_crc type tag short), frameTail_item type tag short]

/-! ### A frame whose check fails -/

theorem failingFrame_iff (bytes : List Byte) : failingFrame bytes = true ↔
    goodLen (byteAt bytes 0) = true ∧ bytes.length = (byteAt bytes 0).toNat + 3 ∧ crcHolds bytes = false := by
  simp [failingFrame, and_assoc]

theorem receive_failing {f : Framer} {bytes : List Byte} (expects : f.expects bytes = true) (fails : failingFrame bytes = true) :
    f.receive (f.remaining bytes) = ((Framer.hunt.receive bytes).1, .crcFail :: (Framer.hunt.receive bytes).2) := by
  obtain ⟨len, size, crc⟩ := (failingFrame_iff bytes).1 fails
  rw [receive_remaining expects len size, Framer.checked, if_neg (by simp [crc])]

/-- A receiver that does not expect the frame takes it whole, with its start byte. -/
theorem remaining_unexpected {f : Framer} {bytes : List Byte} (other : f.expects bytes = false) : f.remaining bytes = startByte :: bytes := by
  cases f with
  | hunt => simp [Framer.expects] at other
  | frame stored gap => simp [Framer.remaining, other]

/-- Settles O14: the check counts the frame with the receiver in HUNT, which takes the stored bytes next. -/
theorem crcFailureIsExaminedAgain : Obligations.CrcFailureIsExaminedAgain := by
  intro bytes s running fails
  have host : exec (.hostFrameCrcFail bytes) s = .next (hostBytes (s.hlc.framer.remaining bytes) s) :=
    congrArg Host.Outcome.next (whenRunning_high _ running)
  have feed : exec (.feedFrameCrcFail bytes) s = .next (feedBytes (s.flr.framer.remaining bytes) s) :=
    congrArg Host.Outcome.next (whenRunning_high _ running)
  refine ⟨fun expects => ?_, fun other => ?_, fun expects => ?_, fun other => ?_⟩
  · rw [host, hostBytes, receive_failing expects fails]
    rfl
  · rw [host, remaining_unexpected other]
  · rw [feed, feedBytes, receive_failing expects fails]
    rfl
  · rw [feed, remaining_unexpected other]

/-! ### Frames taken byte by byte -/

/-- Settles O12. -/
theorem otherFramesComeByBytes : Obligations.OtherFramesComeByBytes := by
  intro c type tag p s running
  refine ⟨fun frame other => ?_, fun frame other => ?_⟩
  · have unheard : ¬ (sendable p && s.hlc.framer.expects (frameTail type tag p)) = true := by
      simpa [Hears, running, sendable] using other
    rw [exec_hostFrame frame, hostCommand, whenRunning_high _ running, hostFrame, if_neg unheard]
  · have unheard : ¬ (decide (p.length ≤ 246) && s.flr.framer.expects (frameTail type tag p)) = true := by
      simpa [FeedHears, running] using other
    have bytes (act : State → State) : whenRunning (feedFrameArrives type tag p act) s = feedBytes (frameBytes type tag p) s := by
      rw [whenRunning_high _ running, feedFrameArrives, if_neg unheard]
    cases c with
    | fixBatch tag' fixes =>
      cases frame
      exact congrArg Host.Outcome.next (bytes _)
    | feedFrameDiscard type' tag' p' =>
      cases frame
      exact congrArg Host.Outcome.next (bytes _)
    | _ => simp [feedFrameOf] at frame

/-! ### Single line events -/

/-- A byte that opens or ends nothing beyond its framer. -/
theorem hostBytes_quiet {s : State} {bs : List Byte} {f : Framer} (h : s.hlc.framer.receive bs = (f, [])) :
    hostBytes bs s = s.withHostFramer f := by
  rw [hostBytes, h]
  rfl

theorem feedBytes_quiet {s : State} {bs : List Byte} {f : Framer} (h : s.flr.framer.receive bs = (f, [])) :
    feedBytes bs s = s.withFeedFramer f := by
  rw [feedBytes, h]
  rfl

theorem receive_startByte : Framer.hunt.receive [startByte] = (.frame [] 0, []) := by
  rw [receive_start, Framer.receive_nil]

theorem goodLen_bad {len : Byte} (bad : len.toNat ≤ 1 ∨ 249 ≤ len.toNat) : goodLen len = false := by
  simp only [goodLen, Bool.and_eq_false_iff, decide_eq_false_iff_not]
  omega

/-- A bad LEN byte in HUNT or LENGTH leaves the receiver in HUNT (R136). -/
theorem receive_badLen {f : Framer} (phase : f.phase = .hunt ∨ f.phase = .length) {len : Byte} (bad : len.toNat ≤ 1 ∨ 249 ≤ len.toNat) :
    f.receive [len] = (.hunt, []) := by
  have notStart : len ≠ startByte := by
    rintro rfl
    revert bad
    decide
  cases f with
  | hunt =>
    rw [Framer.receive_cons hunt_opened]
    simp [Framer.byte, notStart]
  | frame stored gap =>
    cases stored with
    | nil =>
      have opened : (Framer.frame [] gap).opened := show (251 : Nat) ≤ 252 by omega
      rw [Framer.receive_cons opened]
      simp [Framer.byte, goodLen_bad bad]
    | cons l body =>
      simp only [Framer.phase] at phase
      split at phase <;> simp at phase

/-- Settles O15: each event is the byte or the timer taken by the framer. -/
theorem lineEventsMoveTheFramers : Obligations.LineEventsMoveTheFramers := by
  intro s running
  have runs {c : Instr} {act : State → State} (command : ∀ u, exec c u = .next (whenRunning act u)) : exec c s = .next (act s) := by
    rw [command, whenRunning_high act running]
  have start : exec .hostFrameStart s = .next (hostBytes [startByte] s) := runs fun _ => rfl
  have feedStart : exec .feedFrameStart s = .next (feedBytes [startByte] s) := runs fun _ => rfl
  have gap : exec .hostGapTimeout s = .next (if s.hlc.framer.gapDue then abandonHostFrame s else s) :=
    runs (act := fun s => if s.hlc.framer.gapDue then abandonHostFrame s else s) fun _ => rfl
  have feedGap : exec .feedGapTimeout s = .next (if s.flr.framer.gapDue then abandonFeedFrame s else s) :=
    runs (act := fun s => if s.flr.framer.gapDue then abandonFeedFrame s else s) fun _ => rfl
  have badLen (len : Byte) : exec (.hostBadLen len) s = .next (hostBytes [len] s) := runs fun _ => rfl
  have feedBadLen (len : Byte) : exec (.feedBadLen len) s = .next (feedBytes [len] s) := runs fun _ => rfl
  refine ⟨fun hunt => ?_, fun _ => start, fun hunt => ?_, fun _ => feedStart, fun len bad => ⟨fun phase => ?_, fun phase => ?_⟩,
    fun len => ⟨fun _ => badLen len, fun _ => feedBadLen len⟩, runs (act := abandonHostFrame) fun _ => rfl,
    runs (act := abandonFeedFrame) fun _ => rfl, fun stored time frame => ?_,
    fun hunt => ?_, fun stored time frame => ?_, fun hunt => ?_⟩
  · rw [start, hostBytes_quiet (by rw [hunt]; exact receive_startByte)]
  · rw [feedStart, feedBytes_quiet (by rw [hunt]; exact receive_startByte)]
  · rw [badLen, hostBytes_quiet (receive_badLen phase bad)]
  · rw [feedBadLen, feedBytes_quiet (receive_badLen phase bad)]
  · rw [gap]
    by_cases due : 10 ≤ time <;> simp [frame, Framer.gapDue, gapTime, due, abandonHostFrame]
  · rw [gap]
    simp [hunt, Framer.gapDue]
  · rw [feedGap]
    by_cases due : 10 ≤ time <;> simp [frame, Framer.gapDue, gapTime, due, abandonFeedFrame]
  · rw [feedGap]
    simp [hunt, Framer.gapDue]

end Sys2Proof.Machine
end

section
/-! SUPPORT. Requests of the host link: their lengths, their refusals and their replies (R139 to R151, R169). -/

namespace Sys2Proof.Machine

set_option Elab.async false

/-! ### Replies -/

/-- HHOLD settled, as a level of the reply queue (R150). -/
theorem settle_eq (h : HostLink) : h.settle = { h with hhold := hholdAt h.replies.length h.hhold } := by
  unfold HostLink.settle hholdAt HostLink.freeEntries
  congr 1
  by_cases high : 4 < h.replies.length
  · rw [if_pos (by omega), if_pos high]
  · rw [if_neg (by omega), if_neg high]
    by_cases low : h.replies.length ≤ 2
    · rw [if_pos (by omega), if_pos low]
    · rw [if_neg (by omega), if_neg low]

theorem flagsByte_bits (fresh drop pending dirty : Bool) :
    (flagsByte fresh drop pending dirty).getLsbD 0 = fresh ∧ (flagsByte fresh drop pending dirty).getLsbD 1 = drop ∧
    (flagsByte fresh drop pending dirty).getLsbD 2 = pending ∧ (flagsByte fresh drop pending dirty).getLsbD 3 = dirty ∧
    ∀ i, i < 8 → 4 ≤ i → (flagsByte fresh drop pending dirty).getLsbD i = false := by
  revert fresh drop pending dirty
  decide

/-- Settles O8: the flags by their bits, the frame by the encoder, and HHOLD by the number of replies. -/
theorem replyIsFormed : Obligations.ReplyIsFormed := by
  refine ⟨fun type tag r body s => ?_, fun s fresh drop => ?_, fun r => rfl⟩
  · rw [formReply, settle_eq, List.length_append]
    rfl
  · obtain ⟨bit0, bit1, bit2, bit3, rest⟩ := flagsByte_bits fresh drop (!s.eq.waiting.isEmpty) (!s.dirty.isEmpty)
    refine ⟨bit0, bit1, ?_, ?_, fun i high => ?_⟩
    · rw [flagsWith, bit2]
      cases s.eq.waiting <;> simp
    · rw [flagsWith, bit3]
      cases s.dirty <;> simp
    · by_cases within : i < 8
      · exact rest i within high
      · exact BitVec.getLsbD_of_ge _ i (by omega)

/-- Settles O16: the head leaves, HHOLD is settled, and a held reply, if any, is formed in its place. -/
theorem replySentFreesTheHead : Obligations.ReplySentFreesTheHead := by
  intro s running
  have sent : exec .replySent s = .next (replyDeparts s) := congrArg Host.Outcome.next (whenRunning_high replyDeparts running)
  refine ⟨fun empty => ?_, fun r rest replies => ⟨fun none_held => ?_, fun others tag result body order held => ?_,
    fun others tag result body order held => ?_⟩⟩ <;> rw [sent, replyDeparts]
  · simp only [empty]
  all_goals simp only [replies, releaseHeldReply, State.withHlc_hlc, settle_eq]
  · simp only [none_held]
  · simp only [order, HostLink.heldReply, held]
    rfl
  · simp only [order, HostLink.heldReply, held]
    rfl

/-! ### What each TYPE is decoded to (R139, R151, R169) -/

theorem type_of_number {type : Byte} {n : Nat} (number : type.toNat = n) : type = BitVec.ofNat 8 n := by
  rw [← number, BitVec.ofNat_toNat, BitVec.setWidth_eq]

/-- A TYPE that names no request has no owner, and every length of it is allowed. -/
theorem unknown_decoded {type : Byte} (unknown : type ∉ requestTypes) (tag : Byte) (p : List Byte) :
    decodeRequest type tag p = immediate type tag true (fun s => (s, .unknownType, [])) ∧ lengthAllowed type p = true := by
  have other {n : Nat} (known : BitVec.ofNat 8 n ∈ requestTypes) : type.toNat ≠ n := fun number => unknown (type_of_number number ▸ known)
  constructor
  · funext s
    unfold decodeRequest
    split
    all_goals first | rfl | exact absurd ‹type.toNat = _› (other (by decide))
  · unfold lengthAllowed
    split
    all_goals first | rfl | exact absurd ‹type.toNat = _› (other (by decide))

/-- Every TYPE but RESTART and the two deferred requests is an immediate request of its owner, with the lengths of R169. -/
theorem decodeRequest_owner {type : Byte} (restart : type ≠ 0x03) (postFix : type ≠ 0x15) (queryPoint : type ≠ 0x1E) (tag : Byte)
    (p : List Byte) : ∃ run, decodeRequest type tag p = immediate type tag (lengthAllowed type p) run := by
  by_cases known : type ∈ requestTypes
  · simp only [requestTypes, List.mem_cons, List.not_mem_nil, or_false] at known
    rcases known with rfl | rfl | rfl | rfl | rfl | rfl | rfl | rfl | rfl | rfl | rfl | rfl | rfl | rfl | rfl | rfl | rfl | rfl | rfl |
      rfl | rfl | rfl | rfl
    case inr.inr.inl => exact absurd rfl restart
    case inr.inr.inr.inr.inr.inl => exact ⟨_, decodeRequest_defineZone tag p⟩
    all_goals first | exact ⟨_, rfl⟩ | exact absurd rfl postFix | exact absurd rfl queryPoint
  · obtain ⟨decoded, allowed⟩ := unknown_decoded known tag p
    exact ⟨_, by rw [decoded, allowed]⟩

/-- Every request of a length that is not allowed is answered BAD_LENGTH, or discarded with no entry free. -/
theorem decodeRequest_badLength {type tag : Byte} {p : List Byte} (len : lengthAllowed type p = false) (s : State) :
    decodeRequest type tag p s = if s.hlc.replies.length < 6 then formReply type tag .badLength [] s else dropRequest s := by
  have badLength (run : State → Answer) : immediate type tag false run s =
      if s.hlc.replies.length < 6 then formReply type tag .badLength [] s else dropRequest s := by
    split
    · exact immediate_badLength type tag run ‹_›
    · exact immediate_full type tag false run (by omega)
  by_cases restart : type = 0x03
  · subst restart
    have long : p.length ≠ 0 := by simpa [lengthAllowed] using len
    show requestRestart tag p s = _
    rw [requestRestart, if_pos long]
    exact badLength _
  by_cases postFix : type = 0x15
  · subst postFix
    have long : p.length ≠ 15 := by simpa [lengthAllowed] using len
    show requestPostFix tag p s = _
    rw [requestPostFix, if_pos long, refuse_eq]
  by_cases queryPoint : type = 0x1E
  · subst queryPoint
    have long : p.length ≠ 7 := by simpa [lengthAllowed] using len
    show requestQueryPoint tag p s = _
    rw [requestQueryPoint, if_pos long, refuse_eq]
  obtain ⟨run, owner⟩ := decodeRequest_owner restart postFix queryPoint tag p
  rw [owner, len]
  exact badLength run

/-- Every request that would place a reply finds no entry (R151). -/
theorem decodeRequest_full {type tag : Byte} {p : List Byte} {s : State} (full : 6 ≤ s.hlc.replies.length)
    (places : type ≠ 0x15 ∧ type ≠ 0x1E ∨ lengthAllowed type p = false) : decodeRequest type tag p s = dropRequest s := by
  cases len : lengthAllowed type p with
  | false => rw [decodeRequest_badLength len, if_neg (by omega)]
  | true =>
    obtain ⟨postFix, queryPoint⟩ := places.resolve_right (by simp [len])
    by_cases restart : type = 0x03
    · subst restart
      have empty : p.length = 0 := by simpa [lengthAllowed] using len
      show requestRestart tag p s = _
      rw [requestRestart, if_neg (by simp [empty]), if_pos]
      simp only [(freeEntries_eq_zero _).2 full, restartReplies]
      omega
    · obtain ⟨run, owner⟩ := decodeRequest_owner restart postFix queryPoint tag p
      rw [owner, immediate_full _ _ _ _ full]

/-- Settles O9. -/
theorem fullReplyQueueDiscards : Obligations.FullReplyQueueDiscards := by
  intro c type tag p s frame hear full places
  rw [exec_hears frame hear, decodeRequest_full (s := heard s) (Nat.le_of_not_lt full) places]
  rfl

/-- Settles O10. -/
theorem badLengthRefused : Obligations.BadLengthRefused := by
  intro c type tag p s frame hear room len
  rw [exec_hears frame hear, decodeRequest_badLength len, if_pos (show (heard s).hlc.replies.length < 6 from room)]

/-- Settles O11. -/
theorem unknownTypeRefused : Obligations.UnknownTypeRefused := fun _ tag p _ hear room unknown =>
  exec_immediate_answers rfl (unknown_decoded unknown tag p).1 hear room rfl rfl

/-! ### ARM_ATTN (R127, R128) -/

theorem decodeRequest_armAttn (tag : Byte) (p : List Byte) :
    decodeRequest 0x1C tag p = immediate 0x1C tag (p.length == 2) (answerArm p) := rfl

theorem attn_iff {s : State} (running : s.resetn = true) :
    s.attn = true ↔ s.eq.armed = true ∧ ∃ e ∈ s.eq.waiting, s.eq.mask.getLsbD e.priority.toNat = true := by
  simp [State.attn, running, EventQueue.enabledPending]

/-- Settles O46. -/
theorem armAttnSets : Obligations.ArmAttnSets := by
  refine ⟨fun s tag mask code hear room => ?_, fun s => attn_iff⟩
  have answers {r : Result} {t : State} (answer : answerArm [mask, code] (heard s) = (t, r, [])) :
      exec (.armAttn tag [mask, code]) s = .next (formReply 0x1C tag r [] t) :=
    exec_immediate_answers rfl (decodeRequest_armAttn tag _) hear room rfl answer
  refine ⟨fun zero => answers ?_, fun one => answers ?_, fun more => answers ?_⟩
  · subst zero
    rfl
  · subst one
    rfl
  · have second : (byteAt [mask, code] 1).toNat = code.toNat := rfl
    unfold answerArm
    rw [second]
    split
    · omega
    · omega
    · rfl

/-! ### The parameters (R173 to R175) -/

theorem decodeRequest_getParam (tag : Byte) (p : List Byte) :
    decodeRequest 0x05 tag p = immediate 0x05 tag (p.length == 1) (answerGetParam p) := rfl

theorem decodeRequest_setParam (tag : Byte) (p : List Byte) :
    decodeRequest 0x04 tag p = immediate 0x04 tag (p.length == 5) (answerSetParam p) := rfl

/-- The seven ids (R173). -/
theorem value_isNone (q : Params) (id : Byte) : q.value id = none ↔ id = 0 ∨ 7 < id.toNat := by
  have zero : id = 0 ↔ id.toNat = 0 := by simp [← BitVec.toNat_inj]
  rw [zero]
  unfold Params.value
  split <;> simp_all
  omega

/-- Settles O21. -/
theorem getParamReports : Obligations.GetParamReports := by
  intro s tag id hear room
  have answers {r : Result} {body : List Byte} (answer : answerGetParam [id] (heard s) = (heard s, r, body)) :
      exec (.getParam tag [id]) s = .next (formReply 0x05 tag r body (heard s)) :=
    exec_immediate_answers rfl (decodeRequest_getParam tag _) hear room rfl answer
  have reports {v : Nat} (value : s.params.value id = some v) :
      exec (.getParam tag [id]) s = .next (formReply 0x05 tag .ok (id :: beBytes 4 v) (heard s)) :=
    answers (by rw [answerGetParam]; simp only [byteAt, List.getD_cons_zero, State.withHlc_params, value])
  refine ⟨fun n => reports ?_, fun n => reports ?_, fun n => reports ?_, fun n => reports ?_, fun n => reports ?_, fun n => reports ?_,
    fun n => reports ?_, fun none => answers ?_⟩
  case refine_8 =>
    rw [answerGetParam]
    simp only [byteAt, List.getD_cons_zero, State.withHlc_params, (value_isNone s.params id).2 none]
  all_goals subst n; rfl

/-- SET_PARAM writes no field but that of its id. -/
theorem value_other_of_set {q q' : Params} {id other : Byte} {v : Nat} (set : q.set id v = some q') (different : other ≠ id) :
    q'.value other = q.value other := by
  unfold Params.set at set
  split at set
  all_goals try split at set
  all_goals cases set
  all_goals
    unfold Params.value
    split
  all_goals first | rfl | exact absurd (BitVec.eq_of_toNat_eq (Eq.trans ‹other.toNat = _› (Eq.symm ‹id.toNat = _›))) different

/-- A value in range is written (R173). -/
theorem set_of_allowed {q : Params} {id : Byte} {v : Nat} (allows : paramAllows id.toNat v = true) :
    ∃ q', q.set id v = some q' ∧ q'.value id = some v := by
  unfold paramAllows at allows
  split at allows <;> rename_i number <;> (try obtain rfl := type_of_number number) <;> simp at allows
  case h_1 =>
    refine ⟨{ q with autoAdmit := v == 1 }, if_pos allows, ?_⟩
    interval_cases v <;> rfl
  case h_2 => exact ⟨{ q with minQuality := BitVec.ofNat 4 v }, if_pos allows, congrArg some (Nat.mod_eq_of_lt (by omega))⟩
  case h_3 => exact ⟨{ q with quietTime := v }, if_pos allows, rfl⟩
  case h_4 => exact ⟨{ q with retireTime := v }, if_pos allows, rfl⟩
  case h_5 => exact ⟨{ q with redeliverTime := v }, if_pos allows, rfl⟩
  case h_6 => exact ⟨{ q with objEventPrio := BitVec.ofNat 3 v }, if_pos allows, congrArg some (Nat.mod_eq_of_lt (by omega))⟩
  case h_7 => exact ⟨{ q with sysEventPrio := BitVec.ofNat 3 v }, if_pos allows, congrArg some (Nat.mod_eq_of_lt (by omega))⟩

theorem set_of_refused {q : Params} {id : Byte} {v : Nat} (refuses : paramAllows id.toNat v = false) : q.set id v = none := by
  unfold paramAllows at refuses
  unfold Params.set
  split at refuses <;> rename_i number <;> simp_all

theorem field_tail (b : Byte) {n v : Nat} (fits : v < 256 ^ n) : field (b :: beBytes n v) 1 n = v := by
  rw [field, List.drop_succ_cons, List.drop_zero, List.take_of_length_le (beBytes_length n v).le, beNat_beBytes_mod, Nat.mod_eq_of_lt fits]

/-- Settles O20. -/
theorem setParamSetsOne : Obligations.SetParamSetsOne := by
  intro s tag id v word hear room
  have number : field (id :: beBytes 4 v) 1 4 = v := field_tail id word
  have answers {r : Result} {t : State} (answer : answerSetParam (id :: beBytes 4 v) (heard s) = (t, r, [])) :
      exec (.setParam tag (id :: beBytes 4 v)) s = .next (formReply 0x04 tag r [] t) :=
    exec_immediate_answers rfl (decodeRequest_setParam tag _) hear room (by simp) answer
  refine ⟨fun allows => ?_, fun refuses => answers ?_⟩
  · obtain ⟨q, set, value⟩ := set_of_allowed (q := s.params) allows
    refine ⟨q, answers ?_, value, fun other => value_other_of_set set⟩
    rw [answerSetParam, number]
    simp only [byteAt, List.getD_cons_zero, State.withHlc_params, set]
  · rw [answerSetParam, number]
    simp only [byteAt, List.getD_cons_zero, State.withHlc_params, set_of_refused refuses]

end Sys2Proof.Machine
end

section
/-! SUPPORT. RESTART and STATUS (R176 to R179). -/

namespace Sys2Proof.Machine

set_option Elab.async false

/-! ### RESTART (R178, R179) -/

/-- The state in which the ABORTED replies have been placed. -/
def abortedState (s : State) : State :=
  abortSlot .query s.hlc.querySlot.tag? (abortSlot .fix s.hlc.fixSlot.tag? s)

theorem abortedState_replies (s : State) : (abortedState s).hlc.replies = s.hlc.replies ++ abortedReplies s := by
  unfold abortedState abortedReplies
  cases s.hlc.fixSlot.tag? with
  | none =>
    cases s.hlc.querySlot.tag? with
    | none => exact (List.append_nil _).symm
    | some b => rfl
  | some a =>
    cases s.hlc.querySlot.tag? with
    | none => rfl
    | some b => exact List.append_assoc _ _ _

theorem abortedState_rest (s : State) : (abortedState s).pending = s.pending ∧ (abortedState s).resetn = s.resetn ∧
    (abortedState s).partTime = s.partTime ∧ (abortedState s).paceIndex = s.paceIndex ∧ (abortedState s).hlc.rate = s.hlc.rate ∧
    (abortedState s).flr = s.flr := by
  unfold abortedState
  cases s.hlc.fixSlot.tag? <;> cases s.hlc.querySlot.tag? <;> exact ⟨rfl, rfl, rfl, rfl, rfl, rfl⟩

theorem restartReplies_eq (s : State) : restartReplies s.hlc = 1 + occupiedSlots s := by
  unfold restartReplies occupiedSlots Deferred.occupied
  cases s.hlc.fixSlot.tag? <;> cases s.hlc.querySlot.tag? <;> rfl

/-- HHOLD after the OK reply of a RESTART: settled from deasserted before it and again with it (R150, R154). -/
theorem hholdAt_restart (n : Nat) : hholdAt (n + 1) (hholdAt n false) = decide (4 < n + 1) := by
  unfold hholdAt
  by_cases high : 4 < n + 1
  · simp [high]
  · have low : ¬ 4 < n := by omega
    simp [high, low]

/-- Settles O22: the entries the replies need, the ABORTED replies, and every block's restart values. -/
theorem restartNeedsItsEntries : Obligations.RestartNeedsItsEntries := by
  intro s tag p hear
  have decoded : exec (.restart tag p) s = .next (requestRestart tag p (heard s)) := exec_hears rfl hear
  refine ⟨fun long room => ?_, fun empty few => ?_, fun empty enough => ?_⟩
  · rw [decoded, requestRestart, if_pos (by simpa using long), immediate_badLength (s := heard s) _ _ _ room]
  · rw [decoded, requestRestart, if_neg (by simp [empty]), if_pos]
    · rfl
    · rw [restartReplies_eq]
      simp only [HostLink.freeEntries]
      show 6 - s.hlc.replies.length < 1 + occupiedSlots s
      omega
  · have runs : exec (.restart tag p) s = .next (formReply 0x03 tag .ok [] (restartBlocks (abortedState (heard s)))) := by
      rw [decoded, requestRestart, if_neg (by simp [empty]), if_neg]
      · rfl
      · rw [restartReplies_eq]
        show ¬ 6 - s.hlc.replies.length < 1 + occupiedSlots s
        omega
    obtain ⟨pending, resetn, time, pace, rate, flr⟩ := abortedState_rest (heard s)
    have replies : (abortedState (heard s)).hlc.replies = s.hlc.replies ++ abortedReplies s := abortedState_replies (heard s)
    refine ⟨_, runs, ?_, ?_, rfl, fun i => Table.get_fill _ i, rfl, rfl, rfl, ?_, rfl, pending, resetn, time, pace⟩
    · rw [formReply_replies]
      show (abortedState (heard s)).hlc.replies ++ _ = _
      have flags : (restartBlocks (abortedState (heard s))).replyFlags = 0x01 := by
        show flagsByte true false false false = 0x01
        decide
      have type : (0x03 : Byte) + 0x80 = 0x83 := by decide
      rw [replies, flags, type]
    · have settled := hholdAt_restart (abortedState (heard s)).hlc.replies.length
      simp only [formReply, restartBlocks, HostLink.restart, settle_eq, State.withHlc_hlc, List.length_append, List.length_singleton, rate,
        settled]
    · show (abortedState (heard s)).flr.restart = _
      rw [flr]
      rfl

/-! ### STATUS (R176, R177, section 9.6) -/

theorem decodeRequest_status (tag : Byte) (p : List Byte) :
    decodeRequest 0x02 tag p = immediate 0x02 tag (p.length == 1) (answerStatus p) := rfl

/-- A field reads back the number whose bytes stand in it (R168). -/
theorem field_of_bytes {p : List Byte} {off n v : Nat} (bytes : (p.drop off).take n = beBytes n v) (fits : v < 256 ^ n) : field p off n = v := by
  rw [field, bytes, beNat_beBytes_mod, Nat.mod_eq_of_lt fits]

/-- A 1-byte field is its byte. -/
theorem field_of_byte {p : List Byte} {off : Nat} {b : Byte} (byte : (p.drop off).take 1 = [b]) : field p off 1 = b.toNat := by
  rw [field, byte]
  show b.toNat * 1 + 0 = b.toNat
  omega

/-- A 1-byte field of a number below 256. -/
theorem field_of_count {p : List Byte} {off n : Nat} (byte : (p.drop off).take 1 = [BitVec.ofNat 8 n]) (fits : n < 256) : field p off 1 = n := by
  rw [field_of_byte byte, BitVec.toNat_ofNat, Nat.mod_eq_of_lt fits]

/-- The flags byte of STATUS as a number (section 9.6). -/
theorem statusFlags_toNat (attn armed hhold fhold : Bool) :
    ((0 : BitVec 4) ++ BitVec.ofBool attn ++ BitVec.ofBool armed ++ BitVec.ofBool hhold ++ BitVec.ofBool fhold : BitVec 8).toNat =
      (if fhold then 1 else 0) + (if hhold then 2 else 0) + (if armed then 4 else 0) + (if attn then 8 else 0) := by
  revert attn armed hhold fhold
  decide

theorem statusBody_length (s : State) : (statusBody s).length = 24 := by
  simp [statusBody]

theorem slotsIn_le (slots : Table Slot 128) (phase : SlotPhase) : slotsIn slots phase ≤ 128 :=
  (List.length_filter_le _ _).trans (List.length_finRange).le

theorem slotsIn_eq (slots : Table Slot 128) (phase : SlotPhase) :
    slotsIn slots phase = ((List.finRange 128).filter fun i => (slots.get i).phase = phase).length :=
  congrArg List.length (List.filter_congr fun i _ => by rw [Bool.eq_iff_iff]; simp)

theorem draftedCount_le (zs : ZoneStore) : draftedCount zs ≤ 64 :=
  (List.length_filter_le _ _).trans (List.length_finRange).le

/-- Settles O19. -/
theorem statusReportsTheFigures : Obligations.StatusReportsTheFigures := by
  intro s tag b hear room free retiring dirty waiting held queue
  refine ⟨statusBody (heard s), exec_immediate_answers rfl (decodeRequest_status tag _) hear room rfl rfl, statusBody_length _, ?_⟩
  have tracked := slotsIn_le s.slots .tracked
  have quiet := slotsIn_le s.slots .quiet
  have leaving := slotsIn_le s.slots .retiring
  have drafted := draftedCount_le s.zs
  refine ⟨field_of_bytes rfl s.zs.generation.isLt, ?_, ?_, field_of_bytes rfl (by omega), field_of_bytes rfl (by omega),
    ?_, ?_, ?_, field_of_count rfl (by omega), field_of_count rfl (by omega), field_of_count rfl (by omega), field_of_count rfl (by omega),
    ?_, ?_, field_of_byte rfl, field_of_bytes rfl s.hlc.discarded.isLt, field_of_bytes rfl s.flr.framesDiscarded.isLt,
    field_of_bytes rfl s.flr.fixesDiscarded.isLt⟩
  · rw [field_of_count rfl (show draftedCount s.zs < 256 by omega)]
    exact congrArg List.length (List.filter_congr fun z _ => by rw [Bool.eq_iff_iff]; simp)
  · rw [field_of_byte (b := boolByte (someOpen s.zs)) rfl]
    by_cases open_entry : ∃ z, (s.zs.draft.get z).isOpen = true
    · have some_open : someOpen s.zs = true := by simpa [someOpen] using open_entry
      rw [if_pos open_entry, some_open]
      rfl
    · have none_open : someOpen s.zs = false := by simpa [someOpen] using open_entry
      rw [if_neg open_entry, none_open]
      rfl
  · rw [field_of_count rfl (show slotsIn s.slots .tracked < 256 by omega)]
    exact slotsIn_eq s.slots .tracked
  · rw [field_of_count rfl (show slotsIn s.slots .quiet < 256 by omega)]
    exact slotsIn_eq s.slots .quiet
  · rw [field_of_count rfl (show slotsIn s.slots .retiring < 256 by omega)]
    exact slotsIn_eq s.slots .retiring
  · rw [field_of_byte (b := s.ev.code) rfl]
    unfold Evaluator.code
    cases s.ev.context with
    | none => rfl
    | some c =>
      obtain ⟨job, void, raw, walk⟩ := c
      cases job <;> rfl
  · rw [field_of_byte rfl, statusFlags_toNat]
    have attn : (heard s).attn = true ↔ s.eq.armed = true ∧ ∃ e ∈ s.eq.waiting, s.eq.mask.getLsbD e.priority.toNat = true :=
      attn_iff (s := heard s) hear.1
    by_cases asserted : (heard s).attn = true
    · rw [if_pos (attn.1 asserted), if_pos asserted]
      rfl
    · rw [if_neg (mt attn.2 asserted), if_neg asserted]
      rfl

end Sys2Proof.Machine
end

section
/-! SUPPORT. The Event Queue's operations as chapter 6 states them (R114 to R126). -/

namespace Sys2Proof.Machine

set_option Elab.async false

/-! ### Lists with distinct numbers -/

/-- The first element with a key is the only one. -/
theorem eraseP_key {α β : Type} [DecidableEq β] (key : α → β) (v : β) {list : List α} (distinct : (list.map key).Nodup) :
    (list.eraseP fun x => key x == v) = list.filter fun x => key x != v := by
  induction list with
  | nil => rfl
  | cons x list ih =>
    rw [List.map_cons, List.nodup_cons] at distinct
    by_cases found : key x = v
    · have others : ∀ y ∈ list, (key y != v) = true := fun y hy =>
        bne_iff_ne.2 fun same => distinct.1 (found.trans same.symm ▸ List.mem_map_of_mem hy)
      rw [List.eraseP_cons_of_pos (by simp [found]), List.filter_cons_of_neg (by simp [found]), List.filter_eq_self.2 others]
    · rw [List.eraseP_cons_of_neg (by simp [found]), List.filter_cons_of_pos (by simp [found]), ih distinct.2]

/-- The element with a key, where keys are distinct. -/
theorem find?_key {α β : Type} [DecidableEq β] (key : α → β) {list : List α} (distinct : (list.map key).Nodup) {x : α} (hx : x ∈ list) :
    (list.find? fun y => key y == key x) = some x := by
  induction list with
  | nil => simp at hx
  | cons y list ih =>
    rw [List.map_cons, List.nodup_cons] at distinct
    rcases List.mem_cons.1 hx with rfl | hx
    · simp
    · rw [List.find?_cons_of_neg, ih distinct.2 hx]
      simpa using fun same : key y = key x => distinct.1 (same ▸ List.mem_map_of_mem hx)

section Sound

variable {slack : Nat} {q : EventQueue}

theorem EventsCore.waitingSeqs {waiting : List Event} {held : List Held} {next : Nat} (h : EventsCore slack waiting held next) :
    (waiting.map (·.seq)).Nodup := by
  have := h.seqs
  rw [List.map_append, List.nodup_append] at this
  exact this.1

/-- No pending event has the number of a held one. -/
theorem EventsCore.seq_apart {waiting : List Event} {held : List Held} {next : Nat} (h : EventsCore slack waiting held next)
    {e : Event} (he : e ∈ waiting) {x : Held} (hx : x ∈ held) : e.seq ≠ x.event.seq := by
  have := h.seqs
  rw [List.map_append, List.nodup_append] at this
  exact this.2.2 _ (List.mem_map_of_mem he) _ (List.mem_map_of_mem (List.mem_map_of_mem hx))

theorem EventsCore.arrival_apart {waiting : List Event} {held : List Held} {next : Nat} (h : EventsCore slack waiting held next)
    {e : Event} (he : e ∈ waiting) {x : Held} (hx : x ∈ held) : e.arrival ≠ x.event.arrival := by
  have := h.arrivals
  rw [List.map_append, List.nodup_append] at this
  exact this.2.2 _ (List.mem_map_of_mem he) _ (List.mem_map_of_mem (List.mem_map_of_mem hx))

/-- Settles O42: the number search passes carried numbers alone, and the newcomer is the latest of its priority. -/
theorem joiningTakesItsPlace : Obligations.JoiningTakesItsPlace := by
  intro q kind priority sound
  obtain ⟨core, -⟩ := ((queueSound_iff q).1 sound).toQueueFreed
  have size := core.size
  obtain ⟨steps, fresh, passed, free⟩ := freshSeq_passes (q := q) (by omega)
  have older (x : Event) (hx : x ∈ q.waiting) : x.arrival < q.nextArrival := core.older x (by simp [hx])
  obtain ⟨front, back, split, placed, before, after⟩ :=
    insertEvent_placed (e := ⟨q.freshSeq, kind, priority, q.nextArrival, false⟩) core.order fun x hx => (older x hx).ne'
  refine ⟨steps, front, back, fun k below => (carries_iff q _).1 (passed k below), ?_, split, ?_, fun x hx => ?_, fun x hx => ?_⟩
  · rw [← fresh]
    exact fun carried => by simp [(carries_iff q _).2 carried] at free
  · rw [← fresh, EventQueue.join, placed]
  · have := (Event.before_iff _ _).1 (before x hx)
    simp only at this
    omega
  · have := (Event.before_iff _ _).1 (after x hx)
    have := older x (by simp [split, hx])
    simp only at *
    omega

end Sound

/-! ### RELEASE_EVENT (R119) -/

theorem decodeRequest_releaseEvent (tag : Byte) (p : List Byte) :
    decodeRequest 0x1B tag p = immediate 0x1B tag (p.length == 2) (answerRelease p) := rfl

/-- Settles O44: a number names one event, held or pending. -/
theorem releaseEventFrees : Obligations.ReleaseEventFrees := by
  intro s tag seq hear room sound
  obtain ⟨core, -⟩ := ((queueSound_iff s.eq).1 sound).toQueueFreed
  have named : BitVec.ofNat 16 (field (beBytes 2 seq.toNat) 0 2) = seq := by
    rw [field_of_bytes (v := seq.toNat) rfl seq.isLt, BitVec.ofNat_toNat, BitVec.setWidth_eq]
  have answers {r : Result} {t : State} (answer : answerRelease (beBytes 2 seq.toNat) (heard s) = (t, r, [])) :
      exec (.releaseEvent tag (beBytes 2 seq.toNat)) s = .next (formReply 0x1B tag r [] t) :=
    exec_immediate_answers rfl (decodeRequest_releaseEvent tag _) hear room (by simp) answer
  have held_iff : (s.eq.held.any fun h => h.event.seq == seq) = true ↔ ∃ h ∈ s.eq.held, h.event.seq = seq := by simp
  refine ⟨fun held => answers ?_, fun e he same => ?_, fun unknown => answers ?_⟩
  · simp only [answerRelease, named, State.withHlc_eq, held_iff.2 held, if_true, EventQueue.dropHeld]
    rw [eraseP_key (fun h : Held => h.event.seq) seq core.heldSeqs]
  · have not_held : ¬ (s.eq.held.any fun h => h.event.seq == seq) = true := by
      rw [held_iff]
      rintro ⟨h, hh, own⟩
      exact core.seq_apart he hh (same.trans own.symm)
    have found : (s.eq.waiting.find? fun e => e.seq == seq) = some e := same ▸ find?_key (fun e : Event => e.seq) core.waitingSeqs he
    refine ⟨fun redelivered => answers ?_, fun fresh => answers ?_⟩
    · simp only [answerRelease, named, State.withHlc_eq, not_held, found, redelivered, if_true, EventQueue.dropWaiting]
      rw [eraseP_key (fun e : Event => e.seq) seq core.waitingSeqs]
      simp
    · simp [answerRelease, named, not_held, found, fresh]
  · have not_held : ¬ (s.eq.held.any fun h => h.event.seq == seq) = true := by
      rw [held_iff]
      rintro ⟨h, hh, own⟩
      exact unknown h.event (List.mem_append_right _ (List.mem_map_of_mem hh)) own
    have not_pending : (s.eq.waiting.find? fun e => e.seq == seq) = none := by
      rw [List.find?_eq_none]
      intro e he
      simpa using unknown e (List.mem_append_left _ he)
    simp [answerRelease, named, not_held, not_pending]

/-! ### Reports of the system kinds (R123) -/

theorem satAdd_one (c : BitVec 16) : satAdd c 1 = if c = 0xFFFF then c else c + 1 := by
  unfold satAdd
  have top : c = 0xFFFF ↔ c.toNat = 65535 := by simp [← BitVec.toNat_inj]
  by_cases full : c = 0xFFFF
  · rw [if_neg (by simp [top.1 full]), if_pos full, full]
    rfl
  · have below := c.isLt
    have := mt top.2 full
    rw [if_pos (by simp; omega), if_neg full]

/-- Settles O48: the three cases of a report, for each kind. -/
theorem systemReportsAreCounted : Obligations.SystemReportsAreCounted := by
  intro q id priority one admits overruns
  have admits_eq : admits = q.waiting.any (Event.isSystem .admitRefused) :=
    congrArg q.waiting.any (funext fun e => by obtain ⟨seq, kind, prio, arrival, redelivered⟩ := e; cases kind <;> rfl)
  have overruns_eq : overruns = q.waiting.any (Event.isSystem .feedOverrun) :=
    congrArg q.waiting.any (funext fun e => by obtain ⟨seq, kind, prio, arrival, redelivered⟩ := e; cases kind <;> rfl)
  have counts (c : BitVec 16) : satAdd c 1#16 = one c := satAdd_one c
  rw [admits_eq, overruns_eq]
  refine ⟨fun pending => ?_, fun none_pending room => ?_, fun none_pending full => ?_, fun pending => ?_, fun none_pending room => ?_,
    fun none_pending full => ?_⟩
  · rw [EventQueue.report, if_pos pending, EventQueue.raisePending]
    congr 1
    refine List.map_congr_left fun e _ => ?_
    obtain ⟨seq, kind, prio, arrival, redelivered⟩ := e
    cases kind <;> simp [Event.isSystem, EventKind.system?, EventKind.addReports, counts]
  · rw [EventQueue.report, if_neg (by simp [none_pending]), if_pos (free_pos.2 room)]
  · rw [EventQueue.report, if_neg (by simp [none_pending]), if_neg (by rw [free_pos]; omega)]
    rfl
  · rw [EventQueue.report, if_pos pending, EventQueue.raisePending]
    congr 1
    refine List.map_congr_left fun e _ => ?_
    obtain ⟨seq, kind, prio, arrival, redelivered⟩ := e
    cases kind <;> simp [Event.isSystem, EventKind.system?, EventKind.addReports, counts]
  · rw [EventQueue.report, if_neg (by simp [none_pending]), if_pos (free_pos.2 room)]
  · rw [EventQueue.report, if_neg (by simp [none_pending]), if_neg (by rw [free_pos]; omega)]
    rfl

/-! ### The redelivery of a held event (R121, R125) -/

theorem satAdd_toNat (a b : BitVec 16) : (satAdd a b).toNat = min 65535 (a.toNat + b.toNat) := by
  unfold satAdd
  have := a.isLt
  have := b.isLt
  split
  · rw [BitVec.toNat_add]
    omega
  · simp only [BitVec.toNat_allOnes]
    omega

theorem redeliveryDue_none {q : EventQueue} {seq : BitVec 16} (not_due : ∀ h ∈ q.held, h.event.seq = seq → h.timer.due = false) :
    redeliveryDue q seq = none := by
  simpa [redeliveryDue, List.find?_eq_none] using not_due

/-- The due held event of a number is the one found: numbers are distinct. -/
theorem redeliveryDue_some {q : EventQueue} (distinct : (q.held.map fun h => h.event.seq).Nodup) {x : Held} (held : x ∈ q.held)
    (due : x.timer.due = true) : redeliveryDue q x.event.seq = some x := by
  cases found : redeliveryDue q x.event.seq with
  | none =>
    have := List.find?_eq_none.1 found x held
    simp [due] at this
  | some y =>
    have own := List.find?_some found
    have same : y.event.seq = x.event.seq := by simpa using (Bool.and_eq_true_iff.1 own).1
    have mem := List.mem_of_find?_eq_some found
    have first := find?_key (fun h : Held => h.event.seq) distinct mem
    rw [same, find?_key (fun h : Held => h.event.seq) distinct held] at first
    exact first.symm

/-- The only pending event of a kind is the one found. -/
theorem find?_system {waiting : List Event} {k : SystemKind} (single : (waiting.filter (Event.isSystem k)).length ≤ 1) {p : Event}
    (mem : p ∈ waiting) (kind : p.kind.system? = some k) : waiting.find? (Event.isSystem k) = some p ∧
      ∀ x ∈ waiting, x.isSystem k = true → x = p := by
  have isk : p.isSystem k = true := by simp [Event.isSystem, kind]
  have only (x : Event) (hx : x ∈ waiting) (isx : x.isSystem k = true) : x = p := by
    have hp := List.mem_filter.2 ⟨mem, isk⟩
    have hx := List.mem_filter.2 ⟨hx, isx⟩
    generalize waiting.filter (Event.isSystem k) = l at *
    match l, single with
    | [y], _ => rw [List.mem_singleton.1 hp, List.mem_singleton.1 hx]
  refine ⟨?_, only⟩
  cases found : waiting.find? (Event.isSystem k) with
  | none => exact absurd isk (List.find?_eq_none.1 found p mem)
  | some x => rw [only x (List.mem_of_find?_eq_some found) (List.find?_some found)]

section GiveBack

variable {q : EventQueue} {x : Held}

/-- The queue without the held event of this number. -/
def EventQueue.without (q : EventQueue) (seq : BitVec 16) : EventQueue :=
  { q with held := q.held.filter fun y => y.event.seq != seq }

/-- The event as it is pending again, with this kind. -/
def Held.returned (x : Held) (kind : EventKind) : Event :=
  { x.event with redelivered := true, kind := kind }

variable (distinct : (q.held.map fun h => h.event.seq).Nodup)

include distinct

theorem giveBack_object (kind : x.event.kind.system? = none) :
    q.giveBack x = ({ q.without x.event.seq with waiting := insertEvent (x.returned x.event.kind) q.waiting }, false) := by
  unfold EventQueue.giveBack
  dsimp only
  rw [eraseP_key (fun h : Held => h.event.seq) x.event.seq distinct, kind]
  rfl

theorem giveBack_older {k : SystemKind} (kind : x.event.kind.system? = some k) {p : Event}
    (found : q.waiting.find? (Event.isSystem k) = some p) (older : p.arrival < x.event.arrival) :
    q.giveBack x = ((q.without x.event.seq).raisePending k x.event.kind.reports, true) := by
  unfold EventQueue.giveBack
  dsimp only
  rw [eraseP_key (fun h : Held => h.event.seq) x.event.seq distinct, kind]
  dsimp only
  rw [found]
  dsimp only
  rw [if_pos older]
  rfl

theorem giveBack_younger {k : SystemKind} (kind : x.event.kind.system? = some k) {p : Event}
    (found : q.waiting.find? (Event.isSystem k) = some p) (younger : x.event.arrival < p.arrival) :
    q.giveBack x = ({ q.without x.event.seq with
      waiting := insertEvent (x.returned (x.event.kind.addReports p.kind.reports)) (q.waiting.eraseP fun y => y.seq == p.seq) }, true) := by
  unfold EventQueue.giveBack
  dsimp only
  rw [eraseP_key (fun h : Held => h.event.seq) x.event.seq distinct, kind]
  dsimp only
  rw [found]
  dsimp only
  rw [if_neg (by omega)]
  rfl

theorem giveBack_alone {k : SystemKind} (kind : x.event.kind.system? = some k)
    (alone : q.waiting.find? (Event.isSystem k) = none) :
    q.giveBack x = (EventQueue.clearWaiting { q.without x.event.seq with
      waiting := insertEvent (x.returned (x.event.kind.addReports (q.waitingCount k))) q.waiting } k, false) := by
  unfold EventQueue.giveBack
  dsimp only
  rw [eraseP_key (fun h : Held => h.event.seq) x.event.seq distinct, kind]
  dsimp only
  rw [alone]
  cases k <;> rfl

end GiveBack

/-- Settles O47: each branch of the redelivery, with its place by priority and arrival. -/
theorem redeliveryReturnsTheEvent : Obligations.RedeliveryReturnsTheEvent := by
  intro s seq running answers
  have runs : exec (.redeliveryExpiry seq) s = .next (match redeliveryDue s.eq seq with
      | some h => redeliver h s
      | none => s) := congrArg Host.Outcome.next (whenRunning_high _ running)
  refine ⟨fun not_due => ?_, fun x held sound own due => ?_⟩
  · show exec _ s = _
    rw [runs, redeliveryDue_none not_due]
  obtain ⟨core, counted, -⟩ := ((queueSound_iff s.eq).1 sound).toQueueFreed
  subst own
  have acts : exec (.redeliveryExpiry x.event.seq) s = .next (redeliver x s) := by
    rw [runs, redeliveryDue_some core.heldSeqs held due]
  have takes_place (kind : EventKind) {list : List Event} (sub : list.Sublist s.eq.waiting) :=
    insertEvent_placed (e := x.returned kind) (core.order.sublist sub) fun y hy => (core.arrival_apart (sub.subset hy) held).symm
  intro left e placed
  refine ⟨fun other => ?_, fun k system => ⟨fun p pending kind => ⟨fun older => ?_, fun younger => ?_⟩, fun none_pending => ?_⟩, satAdd_toNat⟩
  · refine ⟨_, takes_place x.event.kind (List.Sublist.refl _), ?_⟩
    show exec _ s = _
    rw [acts, redeliver, giveBack_object core.heldSeqs other]
    rfl
  · obtain ⟨found, only⟩ := find?_system (core.single k) pending kind
    show exec _ s = _
    rw [acts, redeliver, giveBack_older core.heldSeqs system found older, EventQueue.raisePending]
    have raised : (s.eq.waiting.map fun y => if y.isSystem k then { y with kind := y.kind.addReports x.event.kind.reports } else y) =
        s.eq.waiting.map fun y => if y.seq = p.seq then { y with kind := y.kind.addReports x.event.kind.reports } else y := by
      refine List.map_congr_left fun y hy => ?_
      have same : y.isSystem k = true ↔ y.seq = p.seq :=
        ⟨fun isk => by rw [only y hy isk], fun seq => by
          rw [List.inj_on_of_nodup_map core.waitingSeqs hy pending seq]
          simp [Event.isSystem, kind]⟩
      simp only [same]
    exact congrArg (fun list => Host.Outcome.next (entryFreed (s.withEq { left with waiting := list }))) raised
  · obtain ⟨found, -⟩ := find?_system (core.single k) pending kind
    have erased := eraseP_key (fun e : Event => e.seq) p.seq core.waitingSeqs
    refine ⟨_, takes_place (x.event.kind.addReports p.kind.reports) List.filter_sublist, ?_⟩
    show exec _ s = _
    rw [acts, redeliver, giveBack_younger core.heldSeqs system found younger, erased]
    rfl
  · have alone : s.eq.waiting.find? (Event.isSystem k) = none := by
      rw [List.find?_eq_none]
      intro p hp
      simpa [Event.isSystem] using none_pending p hp
    refine ⟨_, takes_place (x.event.kind.addReports (s.eq.waitingCount k)) (List.Sublist.refl _), ?_⟩
    show exec _ s = _
    rw [acts, redeliver, giveBack_alone core.heldSeqs system alone]
    rfl

end Sys2Proof.Machine
end

section
/-! SUPPORT. Groups of notices as the events of chapter 5 and 6 (R93, R101, R107, R108). -/

namespace Sys2Proof.Machine

set_option Elab.async false

/-- The zones of one set that are not in another, in ascending id. -/
theorem zonesOf_minus (a b : ZoneSet) : zonesOf (a &&& ~~~b) = zonesIn fun z => inSet a z && !inSet b z :=
  List.filter_congr fun z _ => inSet_minus a b z

theorem zonesOf_inter (a b : ZoneSet) : zonesOf (a &&& b) = zonesIn fun z => inSet a z && inSet b z :=
  List.filter_congr fun z _ => inSet_inter a b z

theorem fixPart_eq (sl : Slot) : sl.fixPart = lastFixPart sl := by
  unfold Slot.fixPart lastFixPart
  cases sl.lastFix <;> rfl

/-- Away from the cause ZONE_REMOVED an ABSENT zone's events take OBJ_EVENT_PRIO (R107). -/
theorem catchUp_priority (s : State) (z : ZoneId) :
    zonePriority (s.zs.active.get z) s.params.objEventPrio .catchup = catchUpPriority s z := by
  unfold zonePriority catchUpPriority
  cases s.zs.active.get z <;> rfl

theorem live_priority (s : State) {z : ZoneId} (live : (s.zs.active.get z).isLive = true) (c : Cause) :
    zonePriority (s.zs.active.get z) s.params.objEventPrio c = livePriority s z := by
  unfold zonePriority livePriority
  cases record : s.zs.active.get z with
  | live g a st => rfl
  | absent g p => simp [ActiveRec.isLive, record] at live

/-- Exits of zones as events. -/
theorem map_exits (s : State) (sl : Slot) (zones : ZoneSet) (c : Cause) :
    (exits zones c).map (noticeEvent s sl) = (zonesOf zones).map fun z =>
      (.exit sl.id z c s.zs.generation (zoneFixPart sl c), zonePriority (s.zs.active.get z) s.params.objEventPrio c) :=
  List.map_map

theorem map_enters (s : State) (sl : Slot) (zones : ZoneSet) (c : Cause) :
    (enters zones c).map (noticeEvent s sl) = (zonesOf zones).map fun z =>
      (.enter sl.id z c s.zs.generation (zoneFixPart sl c), zonePriority (s.zs.active.get z) s.params.objEventPrio c) :=
  List.map_map

/-- A catch-up group as events (R101). -/
theorem catchUpEvents_eq (s : State) (sl : Slot) : (catchUpGroup sl).map (noticeEvent s sl) = catchUpEvents s sl := by
  have part := fixPart_eq sl
  simp only [catchUpGroup, catchUpEvents, List.map_append, map_exits, map_enters, zonesOf_minus, catchUp_priority, zoneFixPart, part]
  congr 1
  · congr 1
    · congr 1
      congr 1
      split <;> simp [noticeEvent, noticeKind, noticePriority, part]
    · split <;> simp [noticeEvent, noticeKind, noticePriority, part]
  · split <;> simp [noticeEvent, noticeKind, noticePriority]

theorem catchUpEvents_length (s : State) (sl : Slot) : (catchUpEvents s sl).length = (catchUpGroup sl).length := by
  rw [← catchUpEvents_eq, List.length_map]

/-- The group of a retirement as events (R61): its zones are LIVE. -/
theorem retireEvents_eq {s : State} {sl : Slot} (live : InsideLive s sl) {sl' : Slot} (id : sl'.id = sl.id) (cause : RetireCause) :
    (exits sl.inside .retire ++ [Notice.retired cause]).map (noticeEvent s sl') = retireEvents s sl cause.cause := by
  rw [List.map_append, map_exits, retireEvents, id]
  congr 1
  · refine List.map_congr_left fun z hz => ?_
    rw [live_priority s (live z ((mem_zonesOf _ z).1 hz))]
    rfl
  · simp [noticeEvent, noticeKind, noticePriority, id]

theorem inSet_dropZones (s : State) (z : ZoneId) : inSet (dropZones s.zs.active) z = isDrop s z := by
  rw [dropZones, inSet_zonesWhere]
  unfold isDrop
  cases s.zs.active.get z with
  | live g a st => rw [Bool.eq_iff_iff]; simp
  | absent g p => rfl

theorem isDrop_live {s : State} {z : ZoneId} (drop : isDrop s z = true) : (s.zs.active.get z).isLive = true := by
  unfold isDrop at drop
  cases record : s.zs.active.get z with
  | live g a st => rfl
  | absent g p => simp [record] at drop

/-- The group of a quiet expiry as events (R56). -/
theorem quietEvents_eq (s : State) {sl sl' : Slot} (id : sl'.id = sl.id) (fix : sl'.lastFix = sl.lastFix) :
    (quietGroup s.zs.active sl).map (noticeEvent s sl') = quietEvents s sl := by
  have part : sl'.fixPart = lastFixPart sl := by rw [fixPart_eq, lastFixPart, fix]; rfl
  rw [quietGroup, List.map_append, map_exits, quietEvents, id, zonesOf_inter]
  simp only [inSet_dropZones]
  congr 1
  · refine List.map_congr_left fun z hz => ?_
    have drop : isDrop s z = true := (Bool.and_eq_true_iff.1 (List.mem_filter.1 hz).2).2
    rw [live_priority s (isDrop_live drop)]
    rfl
  · simp [noticeEvent, noticeKind, noticePriority, id, part]

/-! ### The reconciler and the freed entry (R101, R104, R105, R126) -/

/-- What a round of the reconciler makes of a slot that holds something (R96, R105). -/
theorem caughtUp_eq {sl : Slot} (held : sl.phase ≠ .free) : sl.caughtUp = if sl.phase = .retiring then Slot.empty else sl.upToDate := by
  unfold Slot.caughtUp Slot.upToDate
  cases phase : sl.phase with
  | free => exact absurd phase held
  | tracked => simp
  | quiet => simp
  | retiring => simp

/-- Settles O45. -/
theorem freedEntriesAreUsed : Obligations.FreedEntriesAreUsed := by
  refine ⟨fun s => ?_, fun s => reconcile_clean, fun s i rest sound dirty => ?_⟩
  · intro prio q1 q2
    have first : s.eq.queueWaiting .admitRefused prio = q1 := by
      simp only [EventQueue.queueWaiting, free_pos]
      rfl
    have second : q1.queueWaiting .feedOverrun prio = q2 := by
      simp only [EventQueue.queueWaiting, free_pos]
      rfl
    rw [entryFreed, first, second]
  · obtain ⟨fit, -⟩ := (objectsSound_iff s).1 sound
    have nodup := fit.nodup
    have mark := (fit.listed i).1 (by simp [dirty])
    have held : (s.slots.get i).phase ≠ .free := fun free => by
      rw [(fit.fit i).free free] at mark
      simp [Slot.empty] at mark
    intro sl events
    have length : events.length = (catchUpGroup sl).length := catchUpEvents_length s sl
    refine ⟨fun full => reconcile_waits dirty (by rw [← length]; exact full), fun fits => ?_⟩
    rw [reconcile_acts dirty nodup (by rw [← length]; exact fits), caughtUpState, catchUpEvents_eq, caughtUp_eq held]
    have left : s.dirty.filter (· != i) = rest := by
      rw [dirty] at nodup ⊢
      rw [List.filter_cons_of_neg (by simp), List.filter_eq_self.2]
      exact fun j hj => bne_iff_ne.2 fun same => (List.nodup_cons.1 nodup).1 (same ▸ hj)
    rw [left]

end Sys2Proof.Machine
end

section
/-! SUPPORT. Groups handed to the Reporter: a quiet expiry, a retirement (R56, R59 to R63, R94 to R97). -/

namespace Sys2Proof.Machine

set_option Elab.async false

/-! ### A fresh group in full -/

section Fresh

variable {i : SlotNo} {group : List Notice} {s : State}

/-- A group that tells the truth leaves the told record equal to it. -/
theorem toldAll_upToDate {sl : Slot} (clean : sl.dirty = false) (truth : (sl.toldAll group).toldTruth) : sl.toldAll group = sl.upToDate := by
  obtain ⟨told, quiet, e⟩ := toldAll_same sl group
  rw [e] at truth ⊢
  obtain ⟨presence, set⟩ := truth
  have presence : quiet = decide (sl.phase = .quiet) := by
    rcases presence with ⟨phase, mark⟩ | ⟨phase, mark⟩
    · exact mark.trans (by simp [show sl.phase = .tracked from phase])
    · exact mark.trans (by simp [show sl.phase = .quiet from phase])
  have set : told = sl.inside := set
  rw [Slot.upToDate, set, presence, ← clean]

/-- A group that fits is queued whole, and the object is up to date (R94, R95). -/
theorem freshGroup_tells (some_group : group ≠ []) (clean : (s.slots.get i).dirty = false) (fits : group.length ≤ s.eq.free)
    (tells : TellsAll (s.slots.get i) group) (stays : (s.slots.get i).phase ≠ .retiring) :
    freshGroup i group s = (s.withEq (joined s.eq (group.map (noticeEvent s (s.slots.get i))))).withSlots
      (s.slots.set i (s.slots.get i).upToDate) := by
  obtain ⟨size, ⟨retiring, -⟩ | ⟨-, no_retired, truth⟩⟩ := tells
  · exact absurd retiring stays
  · rw [freshGroup_owed size, if_neg (by simp [some_group, clean]), if_pos fits, queueGroup_stays no_retired, toldAll_upToDate clean truth]

/-- A group that does not fit is refused, and the object joins the tail of the dirty list (R97). -/
theorem freshGroup_refused (some_group : group ≠ []) (clean : (s.slots.get i).dirty = false) (full : s.eq.free < group.length)
    (tells : TellsAll (s.slots.get i) group) : freshGroup i group s = markedDirty i s := by
  rw [freshGroup_owed tells.size, if_neg (by simp [some_group, clean]), if_neg (by omega)]

end Fresh

/-- A clean object is not on the dirty list (R100). -/
theorem TableFit.clean_off {late owed : SlotNo → Prop} {slots : Table Slot 128} {dirty : List SlotNo} (h : TableFit late owed slots dirty)
    {i : SlotNo} (clean : (slots.get i).dirty = false) : dirty.filter (· != i) = dirty :=
  List.filter_eq_self.2 fun j hj => bne_iff_ne.2 fun same => by
    rw [← same, (h.listed j).1 hj] at clean
    cases clean

/-! ### A quiet expiry (R56) -/

/-- Settles O40: the group of the DROP zones and QUIET tells a clean object's whole debt. -/
theorem quietExpiryLeavesDropZones : Obligations.QuietExpiryLeavesDropZones := by
  intro s i running sl answers
  have runs : exec (.quietExpiry i) s = .next (if quietDue sl then becomeQuiet i s else s) := congrArg Host.Outcome.next (whenRunning_high _ running)
  refine ⟨fun not_due => ?_, fun length elapsed phase timer due sound => ?_⟩
  · have not_due : quietDue sl = false := by
      rcases not_due with other | waits
      · simp [quietDue, other]
      · simp [quietDue, waits]
    show exec _ s = _
    rw [runs, not_due]
    rfl
  obtain ⟨fit, -⟩ := (objectsSound_iff s).1 sound
  have is_due : quietDue sl = true := by simp [quietDue, phase, timer, Timer.due, due]
  have acts : exec (.quietExpiry i) s = .next (freshGroup i (quietGroup s.zs.active sl)
      (s.withSlots (s.slots.set i (quietSlot s.zs.active s.params.retireTime sl)))) := by
    rw [runs, is_due]
    rfl
  have some_group : quietGroup s.zs.active sl ≠ [] := by simp [quietGroup]
  have now : (s.withSlots (s.slots.set i (quietSlot s.zs.active s.params.retireTime sl))).slots.get i =
    quietSlot s.zs.active s.params.retireTime sl := Table.get_set_self _ i _
  refine ⟨sl.inside &&& ~~~dropZones s.zs.active, clearRuns (dropZones s.zs.active) sl.run, fun z => ?_, fun z => ?_, ?_⟩
  · rw [inSet_minus, inSet_dropZones]
  · rw [clearRuns, Table.get_ofFn, inSet_dropZones]
  intro quiet events
  have events_eq : (quietGroup s.zs.active sl).map (noticeEvent s quiet) = events := quietEvents_eq s rfl rfl
  have events_length : events.length = (quietGroup s.zs.active sl).length := by rw [← events_eq, List.length_map]
  have tells (clean : sl.dirty = false) : TellsAll (quietSlot s.zs.active s.params.retireTime sl) (quietGroup s.zs.active sl) :=
    tellsAll_quiet (fit.honest i (by simp) (by simp [show (s.slots.get i).phase = .tracked from phase]) clean) phase _ _
  refine ⟨fun dirty => ?_, fun clean fits => ?_, fun clean full => ?_⟩ <;> show exec _ s = _ <;> rw [acts]
  · rw [freshGroup_dirty (by rw [now]; exact dirty)]
    rfl
  · rw [freshGroup_tells some_group (by rw [now]; exact clean) (by rw [← events_length]; exact fits) (by rw [now]; exact tells clean)
      (by rw [now]; simp [quietSlot]), now]
    simp only [State.withSlots, State.withEq, Table.set_set, ← events_eq]
    rfl
  · rw [freshGroup_refused some_group (by rw [now]; exact clean) (by rw [← events_length]; exact full) (by rw [now]; exact tells clean),
      markedDirty, now]
    simp only [State.withSlots, Table.set_set]
    rfl

end Sys2Proof.Machine
end

section
/-! SUPPORT. Retirement: by the timer and by the request (R59 to R63, R94 to R97, R103). -/

namespace Sys2Proof.Machine

set_option Elab.async false

/-! ### What a retirement does with the object (R61, R94 to R97) -/

section Retire

variable {i : SlotNo} {s : State} {cause : RetireCause}

/-- A dirty object is left RETIRING and keeps its place on the list (R61, R97). -/
theorem retireObject_dirty (mark : (s.slots.get i).dirty = true) :
    retireObject i cause s = s.withSlots (s.slots.set i ((s.slots.get i).leaving cause true)) := by
  have now : ((s.slots.get i).left cause).dirty = true := mark
  rw [retireObject_eq, freshGroup_dirty (by rw [State.withSlots_slots, Table.get_set_self]; exact now), Slot.leaving, ← mark]
  rfl

section Clean

variable (sound : ObjectsSound s) (stays : (s.slots.get i).phase = .tracked ∨ (s.slots.get i).phase = .quiet)
  (clean : (s.slots.get i).dirty = false)

include sound stays clean

theorem retire_truth : (s.slots.get i).toldTruth := by
  obtain ⟨fit, -⟩ := (objectsSound_iff s).1 sound
  exact fit.honest i (by simp) (by rcases stays with phase | phase <;> simp [phase]) clean

/-- A group that fits is queued whole, and the slot is FREE (R61, R94, R96). -/
theorem retireObject_fits (live : InsideLive s (s.slots.get i))
    (fits : (retireEvents s (s.slots.get i) cause.cause).length ≤ s.eq.free) :
    retireObject i cause s = ((s.withSlots (s.slots.set i Slot.empty)).withDirty (s.dirty.filter (· != i))).withEq
      (joined s.eq (retireEvents s (s.slots.get i) cause.cause)) := by
  have tells := tellsAll_retire (retire_truth sound stays clean) cause
  have events := retireEvents_eq live (sl' := (s.slots.get i).left cause) rfl cause
  rw [← events, List.length_map] at fits
  have now : (s.withSlots (s.slots.set i ((s.slots.get i).left cause))).slots.get i = (s.slots.get i).left cause := Table.get_set_self _ i _
  have mark : ((s.slots.get i).left cause).dirty = false := clean
  rw [retireObject_eq, freshGroup_owed (by rw [now]; exact tells.size), if_neg (by rw [now]; simp [mark]), if_pos (by exact fits),
    queueGroup_retires _ (retired_notMem_exits _ _), now, ← events]
  simp only [freeSlot, State.withSlots, State.withDirty, State.withEq, Table.set_set]
  rfl

/-- A group that does not fit leaves the object RETIRING at the tail of the dirty list (R61, R97). -/
theorem retireObject_full (live : InsideLive s (s.slots.get i))
    (full : s.eq.free < (retireEvents s (s.slots.get i) cause.cause).length) :
    retireObject i cause s = (s.withSlots (s.slots.set i ((s.slots.get i).leaving cause true))).withDirty (s.dirty ++ [i]) := by
  have tells := tellsAll_retire (retire_truth sound stays clean) cause
  rw [← retireEvents_eq live (sl' := (s.slots.get i).left cause) rfl cause, List.length_map] at full
  have now : (s.withSlots (s.slots.set i ((s.slots.get i).left cause))).slots.get i = (s.slots.get i).left cause := Table.get_set_self _ i _
  rw [retireObject_eq, freshGroup_refused (by simp) (by rw [now]; exact clean) (by exact full) (by rw [now]; exact tells), markedDirty, now]
  simp only [State.withSlots, Table.set_set]
  rfl

omit stays in
/-- A clean object is off the dirty list, so freeing its slot leaves the list (R100). -/
theorem clean_off : s.dirty.filter (· != i) = s.dirty :=
  ((objectsSound_iff s).1 sound).1.clean_off clean

end Clean

end Retire

/-! ### A retire expiry (R59) -/

/-- Settles O41: the due expiry is the retirement with cause QUIET. -/
theorem retireExpiryRetires : Obligations.RetireExpiryRetires := by
  intro s i running sl answers
  have runs : exec (.retireExpiry i) s = .next (if retireDue sl then retireObject i .quiet s else s) :=
    congrArg Host.Outcome.next (whenRunning_high _ running)
  refine ⟨fun not_due => ?_, fun length elapsed phase timer due sound live => ?_⟩
  · have not_due : retireDue sl = false := by
      rcases not_due with other | waits
      · simp [retireDue, other]
      · simp [retireDue, waits]
    show exec _ s = _
    rw [runs, not_due]
    rfl
  have is_due : retireDue sl = true := by simp [retireDue, phase, timer, Timer.due, due]
  have acts : exec (.retireExpiry i) s = .next (retireObject i .quiet s) := by rw [runs, is_due]; rfl
  have stays : (s.slots.get i).phase = .tracked ∨ (s.slots.get i).phase = .quiet := .inr phase
  refine ⟨fun dirty => ?_, fun clean fits => ?_, fun clean full => ?_⟩ <;> show exec _ s = _ <;> rw [acts]
  · rw [retireObject_dirty dirty]
  · rw [retireObject_fits (cause := .quiet) sound stays clean live fits, clean_off sound clean]
    rfl
  · rw [retireObject_full (cause := .quiet) sound stays clean live full]

/-! ### RETIRE_OBJECT (R60) -/

theorem decodeRequest_retireObject (tag : Byte) (p : List Byte) :
    decodeRequest 0x16 tag p = immediate 0x16 tag (p.length == 5) (answerRetire p) := rfl

section Request

variable {p : List Byte} {s : State}

theorem answerRetire_zeroId (zero : objIdAt p = 0) : answerRetire p s = (s, .badValue, []) := by
  rw [answerRetire, if_pos zero]

theorem answerRetire_unknown (some_id : objIdAt p ≠ 0) (unknown : Unknown s (objIdAt p)) : answerRetire p s = (s, .noObject, []) := by
  rw [answerRetire, if_neg some_id, findObject_none.2 unknown]

variable {i : SlotNo} (some_id : objIdAt p ≠ 0) (holds : HoldsId s i (objIdAt p))

include some_id holds

theorem answerRetire_found : answerRetire p s =
    if (s.slots.get i).phase = .retiring then (s, .objectState, [])
    else if (byteAt p 4).getLsbD 0 then (retireSilently i s, .ok, [0])
    else (retireObject i .retire s, .ok, [((retireObject i .retire s).slots.get i).phase.code]) := by
  obtain ⟨held, same, only⟩ := holds
  rw [answerRetire, if_neg some_id, findObject_of_unique held same only]
  rfl

end Request

/-- Settles O38, a check of R60 at a time; then SILENT frees the slot, and otherwise the retirement is R61's. -/
theorem retireObjectActs : Obligations.RetireObjectActs := by
  intro s tag p hear room five id answers
  have answered {s' : State} {r : Result} {body : List Byte} (answer : answerRetire p (heard s) = (s', r, body)) : answers r body s' :=
    exec_immediate_answers rfl (decodeRequest_retireObject tag p) hear room (beq_iff_eq.2 five) answer
  refine ⟨fun zero => answered (answerRetire_zeroId zero), fun some_id unknown => answered (answerRetire_unknown some_id unknown),
    fun i some_id holds => ?_⟩
  intro sl others freed
  have found : answerRetire p (heard s) =
      if sl.phase = .retiring then (heard s, .objectState, [])
      else if (byteAt p 4).getLsbD 0 then (retireSilently i (heard s), .ok, [0])
      else (retireObject i .retire (heard s), .ok, [((retireObject i .retire (heard s)).slots.get i).phase.code]) :=
    answerRetire_found some_id holds
  refine ⟨fun retiring => answered ?_, fun stays silent => ⟨fun head more => answered ?_, fun tail => answered ?_⟩,
    fun stays loud sound live => ?_⟩
  · rw [found, if_pos retiring]
  · rw [found, if_neg stays, if_pos silent, retireSilently, if_pos ⟨head, more⟩]
    rfl
  · have quiet : ¬ ((heard s).dirty.head? = some i ∧ (freeSlot i (heard s)).dirty ≠ []) := fun ⟨head, more⟩ =>
      tail.elim (fun other => other head) more
    rw [found, if_neg stays, if_pos silent, retireSilently, if_neg quiet]
    rfl
  · have acts {t : State} {slot : Slot} (left : retireObject i .retire (heard s) = t) (now : t.slots = s.slots.set i slot) :
        answers .ok [slot.phase.code] t :=
      answered (by rw [found, if_neg stays, if_neg (by rw [loud]; exact Bool.false_ne_true), left, now, Table.get_set_self])
    have sound' : ObjectsSound (heard s) := (objectsSound_iff _).2 ((objectsSound_iff s).1 sound)
    have present : (s.slots.get i).phase = .tracked ∨ (s.slots.get i).phase = .quiet := by
      cases phase : (s.slots.get i).phase with
      | free => exact absurd phase holds.1
      | tracked => exact .inl rfl
      | quiet => exact .inr rfl
      | retiring => exact absurd phase stays
    exact ⟨fun dirty => acts (retireObject_dirty (s := heard s) dirty) rfl,
      fun clean fits => acts (retireObject_fits (cause := .retire) (s := heard s) sound' present clean live fits) rfl,
      fun clean full => acts (retireObject_full (cause := .retire) (s := heard s) sound' present clean live full) rfl⟩

end Sys2Proof.Machine
end

section
/-! SUPPORT. COMMIT: the plan taken, the forced exits and what the Reporter makes of them (R19, R20, R36 to R39, R65, R66, R81). -/

namespace Sys2Proof.Machine

set_option Elab.async false

/-! ### What a commit changes, in the words of R37 and R66 -/

/-- The commit's own test of a change is the one that lists the fields (R37). -/
theorem changedBy_eq (r : ActiveRec) (e : DraftEntry) : changedBy r e = changes r e := by
  have differs (old a : Attrs) : old.differs a =
      decide (a.filter ≠ old.filter ∨ a.enterCount ≠ old.enterCount ∨ a.exitCount ≠ old.exitCount ∨ a.invert ≠ old.invert ∨
        a.quiet ≠ old.quiet) := by
    obtain ⟨p, inv, quiet, enter, exit, filter⟩ := old
    obtain ⟨p', inv', quiet', enter', exit', filter'⟩ := a
    rw [Bool.eq_iff_iff, Attrs.differs, bne_iff_ne, decide_eq_true_iff]
    simp only [ne_eq, Attrs.mk.injEq, true_and, not_and_or, @eq_comm _ filter', @eq_comm _ enter', @eq_comm _ exit', @eq_comm _ inv',
      @eq_comm _ quiet']
    tauto
  cases e with
  | amended a =>
    cases r with
    | absent st p => rfl
    | live geo old st => exact differs old a
  | inherit => rfl
  | opened rule a n chain => rfl
  | closed geo a => rfl
  | deleted => rfl

theorem forcedOut_eq (cls : BitVec 3) (r : ActiveRec) : forcedOut cls r = r.holdsNone cls := by
  cases r <;> rfl

/-- The zones a commit takes from an object are the forced ones (R66). -/
theorem inSet_lost (s t : State) (sl : Slot) (z : ZoneId) :
    inSet (lostZones t.zs.active s.zs.changedSet sl) z = decide (Forced s t sl z) := by
  rw [inSet_lostZones, inSet_changedSet, changedBy_eq, forcedOut_eq]
  simp only [Forced, Bool.decide_and, Bool.decide_eq_true]
  cases decide (sl.phase = .tracked ∨ sl.phase = .quiet) <;> cases inSet sl.inside z <;> simp

/-- The group of forced exits as events (R66, R107, R108). -/
theorem forcedEvents_eq (s : State) {t u : State} (zs : u.zs = t.zs) {sl sl' : Slot}
    (id : sl'.id = sl.id) : (forcedExits t.zs.active s.zs.changedSet sl).map (noticeEvent u sl') = forcedEvents s t sl := by
  have zones : zonesOf (lostZones t.zs.active s.zs.changedSet sl) = zonesIn fun z => decide (Forced s t sl z) :=
    List.filter_congr fun z _ => inSet_lost s t sl z
  rw [forcedExits, forcedEvents, List.map_map, zones]
  refine List.map_congr_left fun z _ => ?_
  simp only [Function.comp, noticeEvent, noticeKind, noticePriority, zs, id, livePriority]
  cases t.zs.active.get z <;> rfl

theorem forcedEvents_length (s t : State) (sl : Slot) :
    (forcedEvents s t sl).length = (forcedExits t.zs.active s.zs.changedSet sl).length := by
  rw [← forcedEvents_eq s (u := t) rfl (sl' := sl) rfl, List.length_map]

/-! ### COMMIT answers (R36) -/

theorem decodeRequest_commit (tag : Byte) (p : List Byte) : decodeRequest 0x0E tag p = immediate 0x0E tag (p.length == 0) answerCommit := rfl

theorem lowestOpen_some {zs : ZoneStore} {z : ZoneId} (opened : (zs.draft.get z).isOpen = true)
    (lowest : ∀ y : ZoneId, y.val < z.val → (zs.draft.get y).isOpen = false) : zs.lowestOpen = some z := by
  rw [ZoneStore.lowestOpen, List.find?_eq_some_iff_getElem]
  refine ⟨opened, z.val, by simp, by simp, fun j below => ?_⟩
  simpa using lowest ⟨j, below.trans z.isLt⟩ below

theorem noDraft_iff {zs : ZoneStore} : zs.noDraft = true ↔ ∀ z, zs.draft.get z = .inherit := by
  simp [ZoneStore.noDraft, List.all_eq_true]

theorem answerCommit_open {s : State} {z : ZoneId} (opened : (s.zs.draft.get z).isOpen = true)
    (lowest : ∀ y : ZoneId, y.val < z.val → (s.zs.draft.get y).isOpen = false) :
    answerCommit s = (s, .draftOpen, [BitVec.ofNat 8 z.val]) := by
  rw [answerCommit, lowestOpen_some opened lowest]

theorem answerCommit_nothing {s : State} (inherit : ∀ z, s.zs.draft.get z = .inherit) : answerCommit s = (s, .nothing, []) := by
  rw [answerCommit, lowestOpen_none.2 fun z => by rw [inherit]; rfl]
  simp only [noDraft_iff.2 inherit, if_true]

theorem answerCommit_takes {s : State} (closed : ∀ z, (s.zs.draft.get z).isOpen = false) (some_draft : ∃ z, s.zs.draft.get z ≠ .inherit) :
    answerCommit s = (applyCommit s, .ok, beBytes 2 (nextGeneration s.zs.generation).toNat) := by
  have draft : ¬ s.zs.noDraft = true := fun none_left =>
    some_draft.elim fun z other => other (noDraft_iff.1 none_left z)
  rw [answerCommit, lowestOpen_none.2 closed]
  simp only [if_neg draft, (applyCommit_same s).zs]
  rfl

section Commit

variable {s : State} {tag : Byte} (hear : Hears s 0x0E tag []) (room : HasRoom s)

include hear room

theorem exec_commit {t : State} {r : Result} {body : List Byte} (answer : answerCommit (heard s) = (t, r, body)) :
    exec (.commit tag []) s = .next (formReply 0x0E tag r body t) :=
  exec_immediate_answers rfl (decodeRequest_commit tag []) hear room rfl answer

/-- An effective COMMIT takes the plan and forms its reply after the forced exits (R36, R66). -/
theorem exec_commit_takes (closed : ∀ z, (s.zs.draft.get z).isOpen = false) (some_draft : ∃ z, s.zs.draft.get z ≠ .inherit) :
    exec (.commit tag []) s =
      .next (formReply 0x0E tag .ok (beBytes 2 (nextGeneration s.zs.generation).toNat) (applyCommit (heard s))) :=
  exec_commit hear room (answerCommit_takes (s := heard s) closed some_draft)

end Commit

/-- The store of an effective commit (R36). -/
theorem applyCommit_zs (s : State) : (applyCommit s).zs = s.zs.commit s.ev.context.isSome :=
  (applyCommit_same s).zs

/-! ### The plan taken (R19, R20, R36 to R39, R81) -/

/-- Settles O31: the commit writes the store and the void set, and its consequences write the Object Table and the Reporter's lists alone. -/
theorem commitTakesThePlan : Obligations.CommitTakesThePlan := by
  intro s tag hear room
  refine ⟨fun z opened lowest => exec_commit hear room (answerCommit_open (s := heard s) opened lowest),
    fun inherit => exec_commit hear room (answerCommit_nothing (s := heard s) inherit), fun closed some_draft => ?_⟩
  intro g departing
  obtain ⟨pending, resetn, partTime, paceIndex, zs, ev, hlc, flr, params⟩ := applyCommit_same (heard s)
  have departs : s.zs.departingChains = departing := by
    refine List.flatMap_congr fun z _ => ?_
    cases s.zs.draft.get z <;> rfl
  refine ⟨applyCommit (heard s), exec_commit_takes hear room closed some_draft, ?_, fun z => ?_, ?_, fun busy => ?_, fun idle => ?_, fun z => ?_,
    ?_, fun idle => ?_, fun c busy => ?_, hlc, flr, params, pending, resetn, partTime, paceIndex⟩
  · rw [zs]
    rfl
  · rw [zs]
    exact Table.get_fill _ z
  · rw [zs]
    rfl
  · rw [zs, ← departs]
    simp [planTaken, ZoneStore.commit, busy]
  · rw [zs, ← departs]
    simp [planTaken, ZoneStore.commit, idle]
  · have record : (applyCommit (heard s)).zs.active.get z = committed g (s.zs.active.get z) (s.zs.draft.get z) := by
      rw [zs]
      exact commit_active_get s.zs _ z
    rw [record]
    refine ⟨fun e => by rw [e]; rfl, fun geo a e => by rw [e]; rfl, fun e => by rw [e]; rfl, fun a geo old st e live => ?_⟩
    rw [e, live]
    show ActiveRec.live geo a (if changedBy (.live geo old st) (.amended a) then g else st) = _
    by_cases same : a = { old with priority := a.priority }
    · have kept : changedBy (.live geo old st) (.amended a) = false := bne_eq_false_iff_eq.2 same.symm
      rw [if_pos same, if_neg (by rw [kept]; exact Bool.false_ne_true)]
    · have changed : changedBy (.live geo old st) (.amended a) = true := bne_iff_ne.2 (Ne.symm same)
      rw [if_neg same, if_pos changed]
  · rw [ev]
    rfl
  · rw [ev]
    simp [planTaken, Evaluator.addVoid, idle]
  · refine ⟨c.void ||| s.zs.changedSet, ?_, fun z => ?_⟩
    · rw [ev]
      simp [planTaken, Evaluator.addVoid, busy]
    · rw [inSet_union, inSet_changedSet, changedBy_eq]

/-! ### The forced exits in the Object Table (R65, R66) -/

/-- A slot with no forced exits is as the plan leaves it (R65). -/
theorem applyCommit_unforced (s : State) (j : SlotNo)
    (none_lost : forcedExits (s.zs.commit s.ev.context.isSome).active s.zs.changedSet (s.slots.get j) = []) :
    (applyCommit s).slots.get j = commitSlot (s.zs.commit s.ev.context.isSome).active s.zs.changedSet (s.slots.get j) := by
  have fold (group : SlotNo → List Notice) (proper : ∀ i sl, ProperGroup sl (group i)) (empty : group j = []) (l : List SlotNo) (u : State) :
      (l.foldl (fun u i => freshGroup i (group i) u) u).slots.get j = u.slots.get j := by
    induction l generalizing u with
    | nil => rfl
    | cons i l ih =>
      refine (ih _).trans ?_
      show (freshGroup i (group i) u).slots.get j = u.slots.get j
      by_cases same : j = i
      · rw [← same, empty]
        rfl
      · exact freshGroup_other (proper i _) same
  have after := fold (fun i => forcedExits (s.zs.commit s.ev.context.isSome).active s.zs.changedSet (s.slots.get i))
    (fun i sl => properGroup_forced sl _ _ _) none_lost (List.finRange 128)
    ((planTaken s).withSlots (s.slots.map (commitSlot (s.zs.commit s.ev.context.isSome).active s.zs.changedSet)))
  rw [State.withSlots_slots, Table.get_map] at after
  exact after

/-- No object is freed by a commit, and the Reporter writes its told record and mark alone (R66). -/
theorem applyCommit_slot (s : State) (j : SlotNo) : ∃ told toldQuiet dirty, (applyCommit s).slots.get j =
    { commitSlot (s.zs.commit s.ev.context.isSome).active s.zs.changedSet (s.slots.get j) with
      toldSet := told, toldQuiet := toldQuiet, dirty := dirty } := by
  rcases applyCommit_reported s j with ⟨retiring, -⟩ | ⟨told, quiet, dirty, after, -⟩
  · have phase : (s.slots.get j).phase = .retiring := ((commitSlot_kept _ _ _).1).symm.trans retiring
    have none_lost : forcedExits (s.zs.commit s.ev.context.isSome).active s.zs.changedSet (s.slots.get j) = [] := by
      simp [forcedExits, lostZones, phase, zonesOf_none]
    exact ⟨_, _, _, applyCommit_unforced s j none_lost⟩
  · exact ⟨told, quiet, dirty, after⟩

/-- Settles O32: a slot is as the plan leaves it, but for its told record and mark. -/
theorem commitForcesExits : Obligations.CommitForcesExits := by
  intro s tag hear room closed some_draft
  refine ⟨applyCommit (heard s), _, exec_commit_takes hear room closed some_draft, fun i live => ?_⟩
  obtain ⟨told, quiet, dirty, after⟩ := applyCommit_slot (heard s) i
  have plan := applyCommit_zs (heard s)
  rw [← plan, commitSlot, if_neg (by exact live)] at after
  intro sl tl
  have after : tl = _ := after
  rw [after]
  refine ⟨rfl, rfl, rfl, rfl, rfl, rfl, rfl, rfl, fun z => ⟨?_, ?_⟩⟩
  · exact (Table.get_ofFn _ z).trans (by rw [inSet_changedSet, changedBy_eq]; rfl)
  · have lost := inSet_lost (heard s) (applyCommit (heard s)) sl z
    simp only [inSet_minus, Bool.and_eq_true, Bool.not_eq_true']
    rw [show inSet (lostZones _ _ ((heard s).slots.get i)) z = _ from lost, decide_eq_false_iff_not]
    rfl

/-! ### The forced exits at the Reporter (R66, R94 to R98) -/

/-- What the Reporter leaves of the told record of a slot: the told mark as it was, and of a dirty object the told set too (R97). -/
def Slot.ToldKept (old new : Slot) : Prop :=
  new.toldQuiet = old.toldQuiet ∧ (new.dirty = true → new.toldSet = old.toldSet)

theorem commitSlot_told (active : Table ActiveRec 64) (changed : ZoneSet) (sl : Slot) : sl.ToldKept (commitSlot active changed sl) := by
  unfold commitSlot
  split <;> exact ⟨rfl, fun _ => rfl⟩

section Forced

variable {s t : State}

/-- The Reporter takes one slot's forced exits as `tellSlot` does (R94, R97). -/
theorem freshGroup_forced {u : State} (zs : u.zs = t.zs) {i : SlotNo}
    (mine : u.slots.get i = commitSlot t.zs.active s.zs.changedSet (s.slots.get i))
    (truth : (s.slots.get i).phase ≠ .free → (s.slots.get i).dirty = false → (s.slots.get i).toldTruth) :
    ((freshGroup i (forcedExits t.zs.active s.zs.changedSet (s.slots.get i)) u).eq,
      (freshGroup i (forcedExits t.zs.active s.zs.changedSet (s.slots.get i)) u).dirty) = tellSlot s t (u.eq, u.dirty) i ∧
    (s.slots.get i).ToldKept ((freshGroup i (forcedExits t.zs.active s.zs.changedSet (s.slots.get i)) u).slots.get i) := by
  obtain ⟨phase, id, mark, -⟩ := commitSlot_kept t.zs.active s.zs.changedSet (s.slots.get i)
  rw [← mine] at phase id mark
  have kept : (s.slots.get i).ToldKept (u.slots.get i) := mine ▸ commitSlot_told _ _ _
  have events := forcedEvents_eq s zs id
  have size := forcedEvents_length s t (s.slots.get i)
  by_cases empty : forcedExits t.zs.active s.zs.changedSet (s.slots.get i) = []
  · have no_events : forcedEvents s t (s.slots.get i) = [] := by rw [← events, empty]; rfl
    rw [empty]
    exact ⟨by simp [tellSlot, no_events, freshGroup], kept⟩
  have some_events : forcedEvents s t (s.slots.get i) ≠ [] := fun none_left => empty (by simpa [none_left] using size.symm)
  cases dirty : (s.slots.get i).dirty with
  | true =>
    rw [freshGroup_dirty (mark.trans dirty)]
    exact ⟨by simp [tellSlot, dirty], kept⟩
  | false =>
    have live : (s.slots.get i).phase ≠ .free := fun free => empty (by simp [forcedExits, lostZones, free, zonesOf_none])
    have truth := truth live dirty
    have tells : TellsAll (u.slots.get i) (forcedExits t.zs.active s.zs.changedSet (s.slots.get i)) := mine ▸ tellsAll_forced truth _ _
    by_cases fits : (forcedEvents s t (s.slots.get i)).length ≤ u.eq.free
    · rw [freshGroup_tells empty (mark.trans dirty) (by rw [← size]; exact fits) tells
        (by rw [phase]; rcases truth.1 with ⟨h, -⟩ | ⟨h, -⟩ <;> simp [h]), events]
      refine ⟨by simp [tellSlot, some_events, dirty, fits], ?_⟩
      rw [State.withSlots_slots, Table.get_set_self]
      refine ⟨?_, fun h => by cases h⟩
      rw [Slot.upToDate, phase]
      rcases truth.1 with ⟨phase, quiet⟩ | ⟨phase, quiet⟩ <;> simp [phase, quiet]
    · rw [freshGroup_refused empty (mark.trans dirty) (by rw [← size]; omega) tells, markedDirty]
      refine ⟨by simp [tellSlot, some_events, dirty, fits], ?_⟩
      simp only [State.withDirty_slots, State.withSlots_slots, Table.get_set_self]
      exact ⟨kept.1, fun _ => by rw [mine]; unfold commitSlot; split <;> rfl⟩

/-- The Reporter takes the forced exits slot by slot (R98). -/
theorem commitGroups_told (truth : ∀ i, (s.slots.get i).phase ≠ .free → (s.slots.get i).dirty = false → (s.slots.get i).toldTruth)
    (l : List SlotNo) (nodup : l.Nodup) (u : State) (zs : u.zs = t.zs)
    (waits : ∀ i ∈ l, u.slots.get i = commitSlot t.zs.active s.zs.changedSet (s.slots.get i))
    (kept : ∀ i, (s.slots.get i).ToldKept (u.slots.get i)) :
    ((l.foldl (fun u i => freshGroup i (forcedExits t.zs.active s.zs.changedSet (s.slots.get i)) u) u).eq,
      (l.foldl (fun u i => freshGroup i (forcedExits t.zs.active s.zs.changedSet (s.slots.get i)) u) u).dirty) =
      l.foldl (tellSlot s t) (u.eq, u.dirty) ∧
    ∀ i, (s.slots.get i).ToldKept
      ((l.foldl (fun u i => freshGroup i (forcedExits t.zs.active s.zs.changedSet (s.slots.get i)) u) u).slots.get i) := by
  induction l generalizing u with
  | nil => exact ⟨rfl, kept⟩
  | cons i l ih =>
    rw [List.nodup_cons] at nodup
    have others {j : SlotNo} (other : j ≠ i) := freshGroup_other
      (properGroup_forced (u.slots.get i) t.zs.active s.zs.changedSet (s.slots.get i)) other
    obtain ⟨told, mine⟩ := freshGroup_forced zs (waits i (by simp)) (truth i)
    have rest := ih nodup.2 (freshGroup i (forcedExits t.zs.active s.zs.changedSet (s.slots.get i)) u) ((freshGroup_same _ _ _).zs.trans zs)
      (fun j later => (others fun same => nodup.1 (same ▸ later)).trans (waits j (by simp [later])))
      (fun j => by
        by_cases same : j = i
        · rw [same]
          exact mine
        · rw [others same]
          exact kept j)
    rw [told] at rest
    exact rest

end Forced

/-- The Event Queue and the dirty list of a commit, and what it leaves of the told records (R66, R97, R98). -/
theorem applyCommit_told {s : State} (sound : ObjectsSound s) :
    ((applyCommit s).eq, (applyCommit s).dirty) = tellForced s (applyCommit s) ∧
    ∀ i, (s.slots.get i).ToldKept ((applyCommit s).slots.get i) := by
  obtain ⟨fit, -⟩ := (objectsSound_iff s).1 sound
  have plan := applyCommit_zs s
  have told := commitGroups_told (s := s) (t := applyCommit s) (fun i => fit.honest i (by simp)) (List.finRange 128) (List.nodup_finRange 128)
    ((planTaken s).withSlots (s.slots.map (commitSlot (applyCommit s).zs.active s.zs.changedSet))) plan.symm
    (fun i _ => Table.get_map _ _ i) (fun i => by
      rw [State.withSlots_slots, Table.get_map]
      exact commitSlot_told _ _ _)
  rw [plan] at told
  exact told

/-! ### When every forced exit fits -/

/-- The forced exits of a commit, slot after slot. -/
def forcedPairs (s t : State) : List (SlotNo × ZoneId) :=
  (List.finRange 128).flatMap fun i => (zonesIn fun z => decide (Forced s t (s.slots.get i) z)).map (i, ·)

/-- Their events, in the order the Reporter takes them. -/
def allForced (s t : State) : List (EventKind × BitVec 3) :=
  (List.finRange 128).flatMap fun i => forcedEvents s t (s.slots.get i)

theorem mem_forcedPairs {s t : State} {i : SlotNo} {z : ZoneId} : (i, z) ∈ forcedPairs s t ↔ Forced s t (s.slots.get i) z := by
  simp only [forcedPairs, List.mem_flatMap, List.mem_finRange, true_and, List.mem_map, List.mem_filter, decide_eq_true_eq, Prod.mk.injEq]
  constructor
  · rintro ⟨j, y, forced, rfl, rfl⟩
    exact forced
  · exact fun forced => ⟨i, z, forced, rfl, rfl⟩

theorem nodup_forcedPairs (s t : State) : (forcedPairs s t).Nodup := by
  refine List.nodup_flatMap.2 ⟨fun i _ => ?_, (List.nodup_finRange 128).imp fun {i j} other => ?_⟩
  · exact ((List.nodup_finRange 64).filter _).map fun z y same => (Prod.mk.inj same).2
  · intro p here there
    obtain ⟨z, -, rfl⟩ := List.mem_map.1 here
    obtain ⟨y, -, same⟩ := List.mem_map.1 there
    exact other (Prod.mk.inj same).1.symm

theorem allForced_length (s t : State) : (allForced s t).length = (forcedPairs s t).length := by
  simp only [allForced, forcedPairs, List.length_flatMap, forcedEvents, List.length_map]

theorem mem_allForced {s t : State} {i : SlotNo} {z : ZoneId} (forced : Forced s t (s.slots.get i) z) :
    (.exit (s.slots.get i).id z (if (t.zs.active.get z).isLive then .zoneChanged else .zoneRemoved) t.zs.generation none,
      livePriority t z) ∈ allForced s t :=
  List.mem_flatMap.2 ⟨i, List.mem_finRange i, List.mem_map.2 ⟨z, List.mem_filter.2 ⟨List.mem_finRange z, decide_eq_true forced⟩, rfl⟩⟩

/-- With room for all and no object dirty every group is queued (R94). -/
theorem tellSlots_fit {s t : State} (l : List SlotNo) (clean : ∀ i ∈ l, (s.slots.get i).dirty = false) (q : EventQueue) (dirty : List SlotNo)
    (fits : (l.flatMap fun i => forcedEvents s t (s.slots.get i)).length ≤ q.free) :
    l.foldl (tellSlot s t) (q, dirty) = (joined q (l.flatMap fun i => forcedEvents s t (s.slots.get i)), dirty) := by
  induction l generalizing q with
  | nil => rfl
  | cons i l ih =>
    rw [List.flatMap_cons, List.length_append] at fits
    have first : tellSlot s t (q, dirty) i = (joined q (forcedEvents s t (s.slots.get i)), dirty) := by
      have mark := clean i (by simp)
      by_cases empty : forcedEvents s t (s.slots.get i) = []
      · simp [tellSlot, empty]
      · have room : (forcedEvents s t (s.slots.get i)).length ≤ q.free := by omega
        simp [tellSlot, empty, mark, room]
    rw [List.foldl_cons, first, ih (fun j later => clean j (by simp [later])) _ (by rw [joined_free]; omega), List.flatMap_cons, joined, joined,
      joined, List.foldl_append]

/-- With room for all and no object dirty every forced exit is pending (R66). -/
theorem tellForced_fits {s t : State} (clean : ∀ i, (s.slots.get i).dirty = false) (fits : (forcedPairs s t).length ≤ s.eq.free) :
    tellForced s t = (joined s.eq (allForced s t), s.dirty) :=
  tellSlots_fit (List.finRange 128) (fun i _ => clean i) s.eq s.dirty ((allForced_length s t).trans_le fits)

/-- Settles O33: the Reporter takes the groups one slot after another, and a slot off the dirty list is told the truth. -/
theorem commitTellsForcedExits : Obligations.CommitTellsForcedExits := by
  intro s tag hear room closed some_draft sound
  have sound' : ObjectsSound (heard s) := (objectsSound_iff _).2 ((objectsSound_iff s).1 sound)
  obtain ⟨fit, -⟩ := (objectsSound_iff s).1 sound
  have after : TableFit (fun _ => False) (fun _ => False) (applyCommit (heard s)).slots (applyCommit (heard s)).dirty :=
    tableFit_commit (s := heard s) fit
  obtain ⟨told, kept⟩ := applyCommit_told sound'
  have told : ((applyCommit (heard s)).eq, (applyCommit (heard s)).dirty) = tellForced s (applyCommit (heard s)) := told
  have live_after (i : SlotNo) (live : (s.slots.get i).phase ≠ .free) : ((applyCommit (heard s)).slots.get i).phase ≠ .free := by
    obtain ⟨set, quiet, dirty, slot⟩ := applyCommit_slot (heard s) i
    rw [slot]
    exact fun free => live ((commitSlot_kept _ _ _).1.symm.trans free)
  have truth (i : SlotNo) (live : (s.slots.get i).phase ≠ .free) (clean : ((applyCommit (heard s)).slots.get i).dirty = false) :
      ((applyCommit (heard s)).slots.get i).toldSet = ((applyCommit (heard s)).slots.get i).inside :=
    (after.honest i (by simp) (live_after i live) clean).2
  refine ⟨applyCommit (heard s), _, exec_commit_takes hear room closed some_draft, by rw [← told], by rw [← told], fun i => ?_,
    fun losses nodup all clean fits => ?_⟩
  · intro sl tl live
    refine ⟨(kept i).1, fun listed => ?_, fun absent => ?_⟩
    · have mark := (after.listed i).1 listed
      exact ⟨mark, (kept i).2 mark⟩
    · have mark : tl.dirty = false := Bool.eq_false_iff.2 fun mark => absent ((after.listed i).2 mark)
      exact ⟨mark, truth i live mark⟩
  · have same : losses.length = (forcedPairs s (applyCommit (heard s))).length :=
      ((List.perm_ext_iff_of_nodup nodup (nodup_forcedPairs s _)).2 fun ⟨i, z⟩ => (all i z).trans mem_forcedPairs.symm).length_eq
    have marks (i : SlotNo) : (s.slots.get i).dirty = false := Bool.eq_false_iff.2 fun mark => by
      have listed := (fit.listed i).2 mark
      rw [clean] at listed
      cases listed
    have all_told := told.trans (tellForced_fits marks (by rw [← same]; exact fits))
    have queue : (applyCommit (heard s)).eq = joined s.eq (allForced s (applyCommit (heard s))) := congrArg Prod.fst all_told
    have dirty : (applyCommit (heard s)).dirty = [] := (congrArg Prod.snd all_told).trans clean
    refine ⟨dirty, by rw [queue, joined_waiting_length, allForced_length, same], by rw [queue, joined_held], fun i z lost => ?_⟩
    have forced := (all i z).1 lost
    have live : (s.slots.get i).phase ≠ .free := by rcases forced.1 with phase | phase <;> simp [phase]
    refine ⟨?_, ?_⟩
    · have mark : ((applyCommit (heard s)).slots.get i).dirty = false := Bool.eq_false_iff.2 fun mark => by
        have listed := (after.listed i).2 mark
        rw [dirty] at listed
        cases listed
      obtain ⟨set, quiet, mark', slot⟩ := applyCommit_slot (heard s) i
      rw [truth i live mark, slot, ← applyCommit_zs, commitSlot, if_neg (by exact live), inSet_minus,
        inSet_lost (heard s) (applyCommit (heard s)), decide_eq_true (by exact forced)]
      simp
    · rw [Pending, queue]
      exact joined_pending _ (mem_allForced forced)

end Sys2Proof.Machine
end

section
/-! SUPPORT. Grants: the arbiter's choice and the start checks (R73 to R79, R87). -/

namespace Sys2Proof.Machine

set_option Elab.async false

/-! ### The arbiter's choice (R72, R73) -/

theorem sourceWaits_iff (s : State) (src : Source) : sourceWaits s src = true ↔ Waits s src := by
  have slot {α : Type} (d : Deferred α) : d.waits = true ↔ ∃ tag f, d = .waiting tag f := by
    cases d <;> simp [Deferred.waits]
  cases src with
  | hostFix => exact slot _
  | query => exact slot _
  | feed =>
    show (!s.flr.queue.isEmpty) = true ↔ s.flr.queue ≠ []
    cases s.flr.queue <;> simp

theorem arbiterChoice_none {s : State} (idle : ∀ src, ¬ Waits s src) : arbiterChoice s = none := by
  rw [arbiterChoice, List.find?_eq_none]
  exact fun src _ waits => idle src ((sourceWaits_iff s src).1 waits)

/-- The first source that waits at or after the pointer is chosen (R73). -/
theorem arbiterChoice_first {s : State} {src : Source} (first : FirstWaiting s src) : arbiterChoice s = some src := by
  obtain ⟨waits, later, last⟩ := first
  have takes : sourceWaits s src = true := (sourceWaits_iff s src).2 waits
  have skips {other : Source} (idle : ¬ Waits s other) : sourceWaits s other = false :=
    Bool.eq_false_iff.2 fun h => idle ((sourceWaits_iff s other).1 h)
  rw [arbiterChoice]
  by_cases here : src = s.ev.pointer
  · rw [← here, List.find?_cons_of_pos takes]
  · rw [List.find?_cons_of_neg (by rw [skips (later here)]; exact Bool.false_ne_true)]
    by_cases next : src = s.ev.pointer.next
    · rw [← next, List.find?_cons_of_pos takes]
    · have third : src = s.ev.pointer.next.next := by
        revert here next
        cases src <;> cases s.ev.pointer <;> simp [Source.next]
      rw [List.find?_cons_of_neg (by rw [skips (last third)]; exact Bool.false_ne_true), ← third, List.find?_cons_of_pos takes]

/-! ### The start checks, a row of the table of R76 at a time -/

section StartChecks

variable {f : Fix} {job : SlotNo → Job} {refused : Result → State → State} {s : State} {i : SlotNo}

section Held

variable (holds : HoldsId s i f.id)

include holds

theorem openFix_retiring (retiring : (s.slots.get i).phase = .retiring) :
    openFix f job refused s = becomeIdle (refused .objectState s) := by
  have found : startChecks f s = .objectState := by simp [startChecks, findObject_of_unique holds.1 holds.2.1 holds.2.2, retiring]
  rw [openFix, found]

theorem openFix_noFix (stays : (s.slots.get i).phase ≠ .retiring) (noFix : (s.slots.get i).lastFix = none) :
    openFix f job refused s = openContext (job i) s := by
  have found : startChecks f s = .accepted i := by simp [startChecks, findObject_of_unique holds.1 holds.2.1 holds.2.2, stays, noFix]
  rw [openFix, found]

variable {last : LastFix} (stays : (s.slots.get i).phase ≠ .retiring) (some_fix : (s.slots.get i).lastFix = some last)

include stays some_fix

theorem openFix_newer (ahead : newer f.time last.time = true) : openFix f job refused s = openContext (job i) s := by
  have found : startChecks f s = .accepted i := by
    simp [startChecks, findObject_of_unique holds.1 holds.2.1 holds.2.2, stays, some_fix, ahead]
  rw [openFix, found]

theorem openFix_stale (behind : newer f.time last.time = false) :
    openFix f job refused s = becomeIdle (refused .staleFix (countStale i s)) := by
  have found : startChecks f s = .staleFix i := by
    simp [startChecks, findObject_of_unique holds.1 holds.2.1 holds.2.2, stays, some_fix, behind]
  rw [openFix, found]

end Held

section Strange

variable (unknown : Unknown s f.id)

include unknown

theorem openFix_noObject (closed : s.params.autoAdmit = false) : openFix f job refused s = becomeIdle (refused .noObject s) := by
  have found : startChecks f s = .noObject := by simp [startChecks, findObject_none.2 unknown, closed]
  rw [openFix, found]

theorem openFix_tableFull (opens : s.params.autoAdmit = true) (full : ∀ j, (s.slots.get j).phase ≠ .free) :
    openFix f job refused s = becomeIdle (refused .tableFull (reportSystem .admitRefused f.id s)) := by
  have found : startChecks f s = .tableFull := by simp [startChecks, findObject_none.2 unknown, opens, lowestFree_none.2 full]
  rw [openFix, found]

theorem openFix_enters (opens : s.params.autoAdmit = true) (lowest : LowestFree s i) :
    openFix f job refused s =
      openContext (job i) (s.withSlots (s.slots.set i (Slot.entered f.id f.cls s.params.quietTime))) := by
  have found : startChecks f s = .admitted i := by simp [startChecks, findObject_none.2 unknown, opens, lowestFree_eq_some.2 lowest]
  rw [openFix, found]

end Strange

end StartChecks

/-- The test of R76 on the two fix times, in words. -/
theorem newer_iff (new old : BitVec 32) : newer new old = true ↔ 1 ≤ (new - old).toNat ∧ (new - old).toNat ≤ 2147483647 := by
  simp [newer]

theorem countStale_eq (i : SlotNo) (s : State) :
    countStale i s = s.withSlots (s.slots.set i { s.slots.get i with stale := satInc (s.slots.get i).stale }) := by
  rw [countStale, Table.modify_eq_set]

/-! ### A deferred request ends -/

/-- A granted POST_FIX ends with its reply in the queue or held (R146, R147). -/
theorem finishDeferred_fix {s : State} {tag : Byte} (granted : s.hlc.grantedTag .fix = some tag) (r : Result) (body : List Byte) :
    finishDeferred .fix r body s = fixEnds tag r body s := by
  rcases finishDeferred_cases .fix r body s with ⟨none_granted, -⟩ | ⟨tag', granted', cases⟩
  · rw [none_granted] at granted
    cases granted
  · obtain rfl : tag' = tag := Option.some.inj (granted'.symm.trans granted)
    rcases cases with ⟨full, e⟩ | ⟨room, e⟩ <;> rw [e, fixEnds]
    · rw [if_neg (by omega)]
      rfl
    · rw [if_pos room]
      rfl

/-- A granted QUERY_POINT ends with its reply in the queue or held (R146, R147). -/
theorem finishDeferred_query {s : State} {tag : Byte} (granted : s.hlc.grantedTag .query = some tag) (r : Result) (body : List Byte) :
    finishDeferred .query r body s = queryEnds tag r body s := by
  rcases finishDeferred_cases .query r body s with ⟨none_granted, -⟩ | ⟨tag', granted', cases⟩
  · rw [none_granted] at granted
    cases granted
  · obtain rfl : tag' = tag := Option.some.inj (granted'.symm.trans granted)
    rcases cases with ⟨full, e⟩ | ⟨room, e⟩ <;> rw [e, queryEnds]
    · rw [if_neg (by omega)]
      rfl
    · rw [if_pos room]
      rfl

/-! ### The obligation -/

/-- A fix that is opened meets the start checks in the order of their table, whatever source it came from (R76 to R79). -/
theorem openFix_checks {s t : State} (slots : t.slots = s.slots) (params : t.params = s.params) (eq : t.eq = s.eq) (f : Fix)
    (job : SlotNo → Job) (refused : Result → State → State) :
    (∀ i, HoldsId s i f.id →
      ((s.slots.get i).phase = .retiring → openFix f job refused t = idled (refused .objectState t)) ∧
      ((s.slots.get i).phase ≠ .retiring → (s.slots.get i).lastFix = none → openFix f job refused t = openContext (job i) t) ∧
      (∀ last, (s.slots.get i).phase ≠ .retiring → (s.slots.get i).lastFix = some last →
        (1 ≤ (f.time - last.time).toNat → (f.time - last.time).toNat ≤ 2147483647 → openFix f job refused t = openContext (job i) t) ∧
        (((f.time - last.time).toNat = 0 ∨ 2147483647 < (f.time - last.time).toNat) → openFix f job refused t =
          idled (refused .staleFix (t.withSlots (s.slots.set i { s.slots.get i with stale := satInc (s.slots.get i).stale })))))) ∧
    (Unknown s f.id →
      (s.params.autoAdmit = false → openFix f job refused t = idled (refused .noObject t)) ∧
      (s.params.autoAdmit = true →
        ((∀ j, (s.slots.get j).phase ≠ .free) →
          openFix f job refused t = idled (refused .tableFull (t.withEq (s.eq.report .admitRefused f.id s.params.sysEventPrio)))) ∧
        ∀ i, LowestFree s i → openFix f job refused t =
          openContext (job i) (t.withSlots (s.slots.set i (Slot.entered f.id f.cls s.params.quietTime))))) := by
  simp only [HoldsId, Unknown, LowestFree, ← slots, ← params, ← eq]
  refine ⟨fun i holds => ⟨openFix_retiring holds, openFix_noFix holds, fun last stays some_fix => ⟨fun above within => ?_, fun behind => ?_⟩⟩,
    fun unknown => ⟨openFix_noObject unknown, fun opens => ⟨openFix_tableFull unknown opens, fun i => openFix_enters unknown opens⟩⟩⟩
  · exact openFix_newer holds stays some_fix ((newer_iff _ _).2 ⟨above, within⟩)
  · rw [openFix_stale holds stays some_fix (Bool.eq_false_iff.2 fun h => by have := (newer_iff _ _).1 h; omega), countStale_eq]
    rfl

/-- Settles O50: the grant takes the first waiting source's request, and a fix meets the start checks. -/
theorem grantsAreOpened : Obligations.GrantsAreOpened := by
  intro s running answers
  have runs : exec .arbiterGrant s = .next (arbitrate s) := congrArg Host.Outcome.next (whenRunning_high _ running)
  have acts {t : State} (e : arbitrate s = t) : answers t := runs.trans (congrArg Host.Outcome.next e)
  refine ⟨fun busy => acts ?_, fun none_waits => acts ?_, fun idle => ?_⟩
  · rw [arbitrate, if_pos busy]
  · rw [arbitrate, arbiterChoice_none none_waits]
    simp
  intro opened opens
  have granted {src : Source} (first : FirstWaiting s src) : arbitrate s = grant src s := by
    rw [arbitrate, idle, arbiterChoice_first first]
    rfl
  have fix_opens {t : State} {f : Fix} {job : SlotNo → Job} {refused meant : Result → State → State} (slots : t.slots = s.slots)
      (params : t.params = s.params) (eq : t.eq = s.eq) (grants : arbitrate s = openFix f job refused t)
      (same : ∀ r u, u.hlc = t.hlc → refused r u = meant r u) : opens t f job meant := by
    obtain ⟨held, strange⟩ := openFix_checks slots params eq f job refused
    have refuses {r : Result} {u : State} (hlc : u.hlc = t.hlc) (e : openFix f job refused t = idled (refused r u)) :
        answers (idled (meant r u)) := acts (grants.trans (same r u hlc ▸ e))
    refine ⟨fun i holds => ?_, fun unknown => ?_⟩
    · obtain ⟨retiring, noFix, compared⟩ := held i holds
      exact ⟨fun phase => refuses rfl (retiring phase), fun stays none_yet => acts (grants.trans (noFix stays none_yet)),
        fun last stays some_fix => ⟨fun above within => acts (grants.trans ((compared last stays some_fix).1 above within)),
          fun behind => refuses rfl ((compared last stays some_fix).2 behind)⟩⟩
    · obtain ⟨closed, open_⟩ := strange unknown
      exact ⟨fun off => refuses rfl (closed off), fun on => ⟨fun full => refuses rfl ((open_ on).1 full),
        fun i lowest => acts (grants.trans ((open_ on).2 i lowest))⟩⟩
  refine ⟨fun tag q first waits => acts ?_, fun f rest first queue => ?_, fun tag f first waits => ?_⟩
  · rw [granted first, grant, grantQuery]
    simp only [State.withEv_hlc, waits]
    rfl
  · refine fix_opens (t := (s.withEv { s.ev with pointer := .hostFix }).withFlr
      { s.flr with queue := rest, fhold := fholdAt rest.length s.flr.fhold }) rfl rfl rfl (refused := fun _ => countFeedFix) ?_ fun _ _ _ => rfl
    rw [granted first, grant, grantFeed]
    simp only [State.withEv_flr, queue]
    rfl
  · refine fix_opens (t := (s.withEv { s.ev with pointer := .query }).withHlc { s.hlc with fixSlot := .granted tag f }) rfl rfl rfl
      (refused := fun r => finishDeferred .fix r []) ?_
      fun r u hlc => finishDeferred_fix (by rw [hlc]; rfl) r []
    rw [granted first, grant, grantHostFix]
    simp only [State.withEv_hlc, waits]
    rfl

end Sys2Proof.Machine
end

section
/-! SUPPORT. Completions of fixes and queries (R80 to R89). -/

namespace Sys2Proof.Machine

set_option Elab.async false

/-! ### The raw results when the walk has passed zone 63 (R80, R81) -/

theorem walkZones_walk (zs : ZoneStore) (n : Nat) (c : Context) (short : c.walk + n ≤ 64) : (walkZones zs n c).walk = c.walk + n := by
  induction n generalizing c with
  | zero => rfl
  | succ n ih =>
    have next := (walkZone_spec zs c (by omega)).1
    rw [walkZones, ih _ (by omega), next]
    omega

@[simp] theorem walkAll_void (zs : ZoneStore) (c : Context) : (walkAll zs c).void = c.void := by
  have steps (n : Nat) (c : Context) : (walkZones zs n c).void = c.void := by
    induction n generalizing c with
    | zero => rfl
    | succ n ih => rw [walkZones, ih, walkZone_void]
  exact steps _ c

section Walked

variable {s : State} {c : Context} (sound : c.sound s.zs) {z : ZoneId} (clear : inSet c.void z = false)

include sound clear

/-- A zone that is not void holds what the test of its present record gives (R80, R81). -/
theorem walkAll_raw : (walkAll s.zs c).raw.get z = rawCell s.zs c z := by
  have walked : (walkAll s.zs c).walk = 64 := by
    have := sound.1
    rw [walkAll, walkZones_walk _ _ _ (by omega)]
    omega
  have all_sound : (walkAll s.zs c).sound s.zs := walkZones_sound _ sound
  have agrees := (all_sound.2 z).1 (by rw [walked]; exact z.isLt) (by rw [walkAll_void]; exact clear)
  rw [agrees, rawCell, rawCell, walkAll_void, walkAll_job]

theorem walkAll_live {geo : Geometry} {a : Attrs} {st : BitVec 16} (live : s.zs.active.get z = .live geo a st) :
    (walkAll s.zs c).raw.get z = .result (liveRaw s geo a c.job.point.1 c.job.point.2.1 c.job.point.2.2) := by
  have raw : rawResult s.zs.pool (.live geo a st) c.job.point.1 c.job.point.2.1 c.job.point.2.2 =
      some (liveRaw s geo a c.job.point.1 c.job.point.2.1 c.job.point.2.2) := by
    cases invert : a.invert <;> simp [rawResult, liveRaw, invert]
  rw [walkAll_raw sound clear, rawCell, clear, live, raw]
  rfl

theorem walkAll_absent (absent : (s.zs.active.get z).isLive = false) : (walkAll s.zs c).raw.get z = .void := by
  rw [walkAll_raw sound clear, rawCell, clear]
  cases record : s.zs.active.get z with
  | live geo a st => rw [record] at absent; cases absent
  | absent st p => rfl

end Walked

/-! ### A query completion (R88) -/

theorem completeQuery_none {s : State} (idle : s.ev.context = none) : completeQuery s = s := by
  rw [completeQuery, idle]

theorem completeQuery_fix {s : State} {c : Context} {i : SlotNo} {f : Fix} (busy : s.ev.context = some c)
    (job : c.job = .hostFix i f ∨ c.job = .feedFix i f) : completeQuery s = s := by
  rw [completeQuery, busy]
  rcases job with job | job <;> simp only [walkAll_job, job]

theorem completeQuery_ends {s : State} {c : Context} {q : Query} {g : BitVec 16} (busy : s.ev.context = some c) (job : c.job = .query q g) :
    completeQuery s = becomeIdle (finishDeferred .query .ok (queryBody (walkAll s.zs c) g) s) := by
  rw [completeQuery, busy]
  simp only [walkAll_job, job]

/-- Settles O53: a zone is reported when it is not void and its present record gives 1 at the point. -/
theorem queryCompletionReports : Obligations.QueryCompletionReports := by
  intro s running
  have runs : exec .queryCompletion s = .next (completeQuery s) := congrArg Host.Outcome.next (whenRunning_high _ running)
  refine ⟨fun idle => by rw [runs, completeQuery_none idle], fun c busy => ⟨fun i f job => by rw [runs, completeQuery_fix busy job],
    fun q g tag q' job granted sound => ⟨queryInside (walkAll s.zs c), ?_, fun z => ?_⟩⟩⟩
  · rw [runs, completeQuery_ends busy job, finishDeferred_query (tag := tag) (by rw [HostLink.grantedTag, granted]), queryBody, walkAll_void]
    rfl
  · rw [queryInside, inSet_zonesWhere, Context.isVoid, Context.rawIn, walkAll_void]
    cases void : inSet c.void z with
    | true => simp
    | false =>
      cases record : s.zs.active.get z with
      | live geo a st =>
        rw [walkAll_live sound void record, job]
        simp [Job.point]
      | absent st p =>
        rw [walkAll_absent sound void (by rw [record]; rfl)]
        simp

/-! ### A fix completion (R82 to R86) -/

section Fix

variable {s : State} {c : Context} {i : SlotNo} {f : Fix}

theorem completeFix_none (idle : s.ev.context = none) : completeFix s = s := by
  rw [completeFix, idle]

variable (busy : s.ev.context = some c)

include busy

theorem completeFix_query {q : Query} {g : BitVec 16} (job : c.job = .query q g) : completeFix s = s := by
  rw [completeFix, busy]
  simp only [walkAll_job, job]

theorem completeFix_host (job : c.job = .hostFix i f) : completeFix s = becomeIdle (completeHostFix (walkAll s.zs c) i f s) := by
  rw [completeFix, busy]
  simp only [walkAll_job, job]

theorem completeFix_feed (job : c.job = .feedFix i f) : completeFix s = becomeIdle (completeFeedFix (walkAll s.zs c) i f s) := by
  rw [completeFix, busy]
  simp only [walkAll_job, job]

end Fix

/-- Settles O52: the slot no longer holds the object, so nothing is written. -/
theorem fixCompletionDiscards : Obligations.FixCompletionDiscards := by
  intro s running
  have runs : exec .fixCompletion s = .next (completeFix s) := congrArg Host.Outcome.next (whenRunning_high _ running)
  refine ⟨fun idle => by rw [runs, completeFix_none idle], fun c busy => ⟨fun q g job => by rw [runs, completeFix_query busy job],
    fun i f lost => ?_⟩⟩
  have lost : stillHolds (s.slots.get i) f.id = false := by
    rcases lost with other | free | retiring
    · simp [stillHolds, other]
    · simp [stillHolds, free]
    · simp [stillHolds, retiring]
  refine ⟨fun job => ?_, fun tag g job granted => ?_⟩
  · rw [runs, completeFix_feed busy job, completeFeedFix, lost]
    rfl
  · rw [runs, completeFix_host busy job, completeHostFix, lost]
    exact congrArg (fun t => Host.Outcome.next (idled t)) (finishDeferred_fix (by rw [HostLink.grantedTag, granted]) _ _)

/-- The dwell filter is the table of R85. -/
theorem dwell_table (r inside : Bool) (run enterCount exitCount : Nat) :
    DwellTable r inside run enterCount exitCount (dwell inside r run enterCount exitCount).1 (dwell inside r run enterCount exitCount).2 := by
  unfold DwellTable dwell
  cases inside <;> cases r <;> simp <;> grind

section Written

variable {s : State} {c : Context} {i : SlotNo} {f : Fix}

theorem groupQueued_eq (i : SlotNo) (group : List Notice) (s : State) : groupQueued i group s =
    if (s.slots.get i).dirty = false ∧ group.length ≤ s.eq.free then group.length else 0 := by
  rw [groupQueued, groupFits]
  cases (s.slots.get i).dirty <;> simp

/-- A raw result is 1 exactly when it is the result 1. -/
theorem result_beq_true (r : Bool) : (RawCell.result r == RawCell.result true) = r := by
  cases r <;> rfl

theorem dwellZone_void {active : Table ActiveRec 64} {sl : Slot} {z : ZoneId}
    (kept : inSet c.void z = true ∨ (active.get z).isLive = false) : dwellZone active c sl z = (inSet sl.inside z, sl.run.get z) := by
  unfold dwellZone Context.isVoid
  rcases kept with void | absent
  · simp [void]
  · cases record : active.get z with
    | live geo a st => rw [record] at absent; cases absent
    | absent st p => simp

/-- A zone whose inside bit a completion changes is LIVE (R84, R85). -/
theorem live_of_dwellInside {active : Table ActiveRec 64} {sl : Slot} {z : ZoneId}
    (moved : inSet (dwellInside active c sl) z ≠ inSet sl.inside z) : (active.get z).isLive = true := by
  by_contra absent
  rw [Bool.not_eq_true] at absent
  rw [dwellInside, inSet_zonesWhere, dwellZone_void (.inr absent)] at moved
  exact moved rfl

/-- The group of a written completion as events (R86, R93, R107, R108). -/
theorem completionEvents_eq (s : State) (c : Context) (f : Fix) (sl : Slot) (quietTime : Nat) :
    (completionGroup s.zs.active c sl).map (noticeEvent s (completedSlot s.zs.active c f quietTime sl)) =
      completionEvents s sl (dwellInside s.zs.active c sl) f := by
  have part : (completedSlot s.zs.active c f quietTime sl).fixPart = some ⟨f.time, f.x, f.y⟩ := rfl
  have id : (completedSlot s.zs.active c f quietTime sl).id = sl.id := rfl
  simp only [completionGroup, completionEvents, List.map_append, map_exits, map_enters, zonesOf_minus, zoneFixPart, part, id]
  congr 1
  · congr 1
    · cases sl.phase <;> rfl
    · refine List.map_congr_left fun z moved => ?_
      have bits := (List.mem_filter.1 moved).2
      rw [live_priority s (live_of_dwellInside (c := c) (sl := sl) fun same => by simp [same] at bits)]
  · refine List.map_congr_left fun z moved => ?_
    have bits := (List.mem_filter.1 moved).2
    rw [live_priority s (live_of_dwellInside (c := c) (sl := sl) fun same => by simp [same] at bits)]

/-- A fix completion that still holds its object ends as the group's way with the Reporter says (R82 to R86). -/
theorem completeFix_writes (busy : s.ev.context = some c) (holds : stillHolds (s.slots.get i) f.id = true) {t : State} {queued : Nat}
    {dirty : Bool} (written : writeCompletion (walkAll s.zs c) i f s = t)
    (count : groupQueued i (completionGroup s.zs.active (walkAll s.zs c) (s.slots.get i))
      (s.withSlots (s.slots.set i (completedSlot s.zs.active (walkAll s.zs c) f s.params.quietTime (s.slots.get i)))) = queued)
    (mark : (t.slots.get i).dirty = dirty) :
    (c.job = .feedFix i f → completeFix s = idled t) ∧
    (∀ tag g, c.job = .hostFix i f → s.hlc.fixSlot = .granted tag g → completeFix s = idled (fixEnds tag .ok
      ([1] ++ beBytes 8 (dwellInside s.zs.active (walkAll s.zs c) (s.slots.get i)).toNat ++ [BitVec.ofNat 8 queued, if dirty then 1 else 0]) t)) := by
  refine ⟨fun job => ?_, fun tag g job granted => ?_⟩
  · rw [completeFix_feed busy job, completeFeedFix, if_pos holds, written]
    rfl
  · have granted : t.hlc.grantedTag .fix = some tag := by
      rw [← written, (writeCompletion_same _ _ _ _).hlc, HostLink.grantedTag, granted]
    rw [completeFix_host busy job, completeHostFix, if_pos holds, written, finishDeferred_fix granted, postFixBody, count, written, mark]
    rfl

end Written

/-- Settles O51: the dwell filter by its table, and the group of a clean object told whole or owed. -/
theorem fixCompletionWrites : Obligations.FixCompletionWrites := by
  intro s c i f running busy walk sound
  have runs : exec .fixCompletion s = .next (completeFix s) := congrArg Host.Outcome.next (whenRunning_high _ running)
  obtain ⟨fit, -⟩ := (objectsSound_iff s).1 sound
  intro sl present id
  have held : (s.slots.get i).phase ≠ .free := fun free =>
    present.elim (fun phase => nomatch free.symm.trans phase) fun phase => nomatch free.symm.trans phase
  have holds : stillHolds sl f.id = true := by
    rcases present with phase | phase <;> simp [stillHolds, id, phase]
  refine ⟨dwellInside s.zs.active (walkAll s.zs c) sl, Table.ofFn fun z => (dwellZone s.zs.active (walkAll s.zs c) sl z).2, fun z => ?_, ?_⟩
  · rw [dwellInside, inSet_zonesWhere, Table.get_ofFn]
    refine ⟨fun kept => ?_, fun geo a st clear live job => ?_⟩
    · rw [dwellZone_void (by rw [walkAll_void]; exact kept)]
      exact ⟨rfl, rfl⟩
    · have raw := walkAll_live walk clear live
      have point : c.job.point = (f.x, f.y, f.cls) := by rcases job with job | job <;> rw [job] <;> rfl
      rw [point] at raw
      have dwells : dwellZone s.zs.active (walkAll s.zs c) sl z =
          dwell (inSet sl.inside z) (liveRaw s geo a f.x f.y f.cls) (sl.run.get z) a.enterCount.toNat a.exitCount.toNat := by
        simp [dwellZone, Context.isVoid, Context.rawIn, raw, clear, live, result_beq_true]
      rw [dwells]
      exact dwell_table _ _ _ _ _
  intro written events ends job
  let group := completionGroup s.zs.active (walkAll s.zs c) sl
  have group_eq : group.map (noticeEvent s written) = events := completionEvents_eq s (walkAll s.zs c) f sl s.params.quietTime
  have length : events.length = group.length := by rw [← group_eq, List.length_map]
  have no_group : group = [] ↔ events = [] := by rw [← List.length_eq_zero_iff, ← List.length_eq_zero_iff, length]
  have now : (s.withSlots (s.slots.set i written)).slots.get i = written := Table.get_set_self _ i _
  have writes : writeCompletion (walkAll s.zs c) i f s = freshGroup i group (s.withSlots (s.slots.set i written)) := rfl
  have tells (clean : sl.dirty = false) : TellsAll written group :=
    tellsAll_completion (fit.honest i (by simp) held clean) _ _ _ _
  have ended {t : State} {queued : Nat} {dirty : Bool} (e : freshGroup i group (s.withSlots (s.slots.set i written)) = t)
      (count : groupQueued i group (s.withSlots (s.slots.set i written)) = queued) (mark : (t.slots.get i).dirty = dirty) :
      ends queued dirty t := by
    obtain ⟨feed, host⟩ := completeFix_writes busy holds (writes.trans e) count mark
    exact ⟨fun job => by rw [runs, feed job], fun tag g job granted => by rw [runs, host tag g job granted]⟩
  have counts : groupQueued i group (s.withSlots (s.slots.set i written)) =
      if sl.dirty = false ∧ group.length ≤ s.eq.free then group.length else 0 := by
    rw [groupQueued_eq, now]
    rfl
  refine ⟨fun empty => ?_, fun some_events dirty => ?_, fun some_events clean fits => ?_, fun some_events clean full => ?_⟩
  · have empty := no_group.2 empty
    refine ended (by rw [empty]; rfl) (by rw [counts, empty]; simp) ?_
    rw [now]
  · refine ended (freshGroup_dirty (by rw [now]; exact dirty)) (by rw [counts, dirty]; simp) ?_
    rw [now]
    exact dirty
  · have some_group : group ≠ [] := fun empty => some_events (no_group.1 empty)
    refine ended ?_ (by rw [counts, if_pos ⟨clean, by omega⟩, length]) ?_
    · rw [freshGroup_tells some_group (by rw [now]; exact clean) (by rw [← length]; exact fits) (by rw [now]; exact tells clean)
        (by rw [now]; simp [written]), now]
      simp only [State.withSlots, State.withEq, Table.set_set, ← group_eq]
      rfl
    · simp [Slot.upToDate]
  · have some_group : group ≠ [] := fun empty => some_events (no_group.1 empty)
    refine ended ?_ (by rw [counts, if_neg (by omega)]) ?_
    · rw [freshGroup_refused some_group (by rw [now]; exact clean) (by rw [← length]; exact full) (by rw [now]; exact tells clean),
        markedDirty, now]
      simp only [State.withSlots, Table.set_set]
    · simp

end Sys2Proof.Machine
end

section
/-! SUPPORT. Records on the wire: fixes, attributes, vertices and event records (R112, R168, R170, R171). -/

namespace Sys2Proof.Machine

set_option Elab.async false

/-! ### The bits of a byte put together from fields -/

/-- The class/quality byte holds each of its fields at its bits (section 9.3). -/
theorem classQualityByte_bits (f : Fix) : (classQualityByte f).getLsbD 7 = f.reserved ∧ (classQualityByte f).extractLsb' 4 3 = f.cls ∧
    (classQualityByte f).extractLsb' 0 4 = f.quality := by
  have bits : ∀ (reserved : Bool) (cls : BitVec 3) (quality : BitVec 4), let b : Byte := BitVec.ofBool reserved ++ cls ++ quality
      b.getLsbD 7 = reserved ∧ b.extractLsb' 4 3 = cls ∧ b.extractLsb' 0 4 = quality := by decide
  exact bits f.reserved f.cls f.quality

/-- The first of the three bytes of attributes holds each of its fields at its bits (section 9.3). -/
theorem attrsByte_bits : ∀ (p : BitVec 3) (invert drop : Bool),
    let b : Byte := p ++ BitVec.ofBool invert ++ BitVec.ofBool drop ++ (0 : BitVec 3)
    b.extractLsb' 5 3 = p ∧ b.getLsbD 4 = invert ∧ b.getLsbD 3 = drop := by
  decide

theorem countsByte_bits : ∀ enter exit : BitVec 4,
    let b : Byte := enter ++ exit
    b.extractLsb' 4 4 = enter ∧ b.extractLsb' 0 4 = exit := by
  decide

/-! ### Fields read back -/

/-- A number that fits a field reads back from it, wherever the field stands (R168). -/
theorem field_written (n v : Nat) (front rest : List Byte) (fits : v < 256 ^ n) :
    field (front ++ beBytes n v ++ rest) front.length n = v := by
  refine field_of_bytes ?_ fits
  rw [List.append_assoc, List.drop_left, List.take_left' (beBytes_length n v)]

theorem coordAt_written (c : Coord) (front rest : List Byte) : coordAt (front ++ coordBytes c ++ rest) front.length = c := by
  rw [coordAt, coordBytes, field_written 3 _ _ _ c.isLt, BitVec.ofNat_toNat, BitVec.setWidth_eq]

theorem byteAt_right (front p : List Byte) (k : Nat) : byteAt (front ++ p) (front.length + k) = byteAt p k := by
  rw [byteAt, byteAt, List.getD_append_right _ _ _ _ (Nat.le_add_right _ _), Nat.add_sub_cancel_left]

/-- A fix record reads back (section 9.3). -/
theorem fixOf_written (f : Fix) (rest : List Byte) : fixOf (fixBytes f ++ rest) = f := by
  obtain ⟨reserved, cls, quality⟩ := classQualityByte_bits f
  have last : byteAt (fixBytes f ++ rest) 14 = classQualityByte f := rfl
  have id : field (fixBytes f ++ rest) 0 4 = f.id.toNat := field_of_bytes rfl f.id.isLt
  have time : field (fixBytes f ++ rest) 4 4 = f.time.toNat := field_of_bytes rfl f.time.isLt
  have x : field (fixBytes f ++ rest) 8 3 = f.x.toNat := field_of_bytes rfl f.x.isLt
  have y : field (fixBytes f ++ rest) 11 3 = f.y.toNat := field_of_bytes rfl f.y.isLt
  simp only [fixOf, coordAt, last, id, time, x, y, reserved, cls, quality, BitVec.ofNat_toNat, BitVec.setWidth_eq]

/-- The fix records of a run read back (section 9.3). -/
theorem fixesOf_written (fixes : List Fix) (rest : List Byte) : fixesOf fixes.length (fixes.flatMap fixBytes ++ rest) = fixes := by
  induction fixes with
  | nil => rfl
  | cons f fixes ih =>
    rw [List.flatMap_cons, List.append_assoc, List.length_cons, fixesOf, fixOf_written]
    congr 1

theorem attrsAt_written (a : Attrs) (front rest : List Byte) : attrsAt (front ++ attrsBytes a ++ rest) front.length = a := by
  obtain ⟨priority, invert, drop⟩ := attrsByte_bits a.priority a.invert (a.quiet == .drop)
  obtain ⟨enter, exit⟩ := countsByte_bits a.enterCount a.exitCount
  have first : byteAt (front ++ (attrsBytes a ++ rest)) front.length = byteAt (attrsBytes a ++ rest) 0 := byteAt_right front _ 0
  have quiet : (if (a.quiet == .drop) = true then QuietPolicy.drop else .hold) = a.quiet := by cases a.quiet <;> rfl
  rw [attrsAt, List.append_assoc, byteAt_right, byteAt_right, first]
  simp only [attrsBytes, byteAt, List.cons_append, List.getD_cons_zero, List.getD_cons_succ, priority, invert, drop, enter, exit, quiet]

theorem flatMap_vertexBytes_length (vs : List Point) : (vs.flatMap vertexBytes).length = 6 * vs.length := by
  induction vs with
  | nil => rfl
  | cons v vs ih =>
    have six : (vertexBytes v).length = 6 := rfl
    rw [List.flatMap_cons, List.length_append, ih, List.length_cons]
    omega

/-- The vertices of an outline read back (section 9.3). -/
theorem verticesAt_written (b0 b1 : Byte) (vs : List Point) (rest : List Byte) :
    verticesAt ([b0, b1] ++ vs.flatMap vertexBytes ++ rest) vs.length = vs := by
  refine List.ext_getElem (by simp [verticesAt]) fun j below bound => ?_
  have split : [b0, b1] ++ vs.flatMap vertexBytes ++ rest =
      [b0, b1] ++ (vs.take j).flatMap vertexBytes ++ (vertexBytes vs[j] ++ ((vs.drop (j + 1)).flatMap vertexBytes ++ rest)) := by
    have cut : vs.take j ++ vs[j] :: vs.drop (j + 1) = vs := by rw [← List.drop_eq_getElem_cons bound, List.take_append_drop]
    have flat := congrArg (List.flatMap vertexBytes) cut
    rw [List.flatMap_append, List.flatMap_cons] at flat
    rw [← flat]
    simp only [List.append_assoc]
  have front : ([b0, b1] ++ (vs.take j).flatMap vertexBytes).length = 2 + 6 * j := by
    rw [List.length_append, flatMap_vertexBytes_length, List.length_take, Nat.min_eq_left (by omega)]
    rfl
  have x := coordAt_written vs[j].x ([b0, b1] ++ (vs.take j).flatMap vertexBytes)
    (coordBytes vs[j].y ++ ((vs.drop (j + 1)).flatMap vertexBytes ++ rest))
  have y := coordAt_written vs[j].y ([b0, b1] ++ (vs.take j).flatMap vertexBytes ++ coordBytes vs[j].x)
    ((vs.drop (j + 1)).flatMap vertexBytes ++ rest)
  have three : (coordBytes vs[j].x).length = 3 := rfl
  rw [front] at x
  rw [List.length_append, front, three] at y
  simp only [verticesAt, List.getElem_map, List.getElem_range, split, vertexBytes]
  simp only [List.append_assoc] at x y ⊢
  rw [x, y]

/-- Settles O36, a layout at a time. -/
theorem recordsReadBack : Obligations.RecordsReadBack :=
  ⟨fixesOf_written, attrsAt_written, verticesAt_written, fun n v front rest fits => field_written n v front rest fits⟩

end Sys2Proof.Machine
end

section
/-! SUPPORT. TAKE_EVENT and the event record, and the frames of the feed link (R118, R160 to R166, R171). -/

namespace Sys2Proof.Machine

set_option Elab.async false

/-! ### TAKE_EVENT (R118, R171) -/

theorem decodeRequest_takeEvent (tag : Byte) (p : List Byte) :
    decodeRequest 0x1A tag p = immediate 0x1A tag (p.length == 1) (answerTake p) := rfl

section Take

variable {p : List Byte} {s : State}

theorem answerTake_heldFull (full : 8 ≤ s.eq.held.length) : answerTake p s = (s, .heldFull, []) := by
  rw [answerTake, if_pos full]

variable (room : s.eq.held.length < 8)

include room

theorem answerTake_empty (empty : s.eq.waiting = []) : answerTake p s = (s, .empty, []) := by
  rw [answerTake, if_neg (Nat.not_le_of_lt room), empty]

theorem answerTake_takes {e : Event} {rest : List Event} (first : s.eq.waiting = e :: rest) :
    answerTake p s = (s.withEq (s.eq.take e rest ((byteAt p 0).getLsbD 0) s.params.redeliverTime), .ok, eventRecord e) := by
  rw [answerTake, if_neg (Nat.not_le_of_lt room), first]
  rfl

end Take

/-- The flag byte of an event record by its bits (section 9.4). -/
theorem eventFlags_bits (redelivered fix : Bool) (priority : BitVec 3) (k : Nat) :
    (BitVec.ofBool redelivered ++ BitVec.ofBool fix ++ (0 : BitVec 3) ++ priority : BitVec 8).getLsbD k =
      if k < 3 then priority.getLsbD k else if k = 6 then fix else if k = 7 then redelivered else false := by
  have bits : ∀ (redelivered fix : Bool) (priority : BitVec 3) (k : Fin 8),
      (BitVec.ofBool redelivered ++ BitVec.ofBool fix ++ (0 : BitVec 3) ++ priority : BitVec 8).getLsbD k.val =
        if k.val < 3 then priority.getLsbD k.val else if k.val = 6 then fix else if k.val = 7 then redelivered else false := by
    decide
  by_cases within : k < 8
  · exact bits redelivered fix priority ⟨k, within⟩
  · rw [if_neg (by omega), if_neg (by omega), if_neg (by omega)]
    exact BitVec.getLsbD_of_ge _ k (by omega)

/-- Settles O43: the checks of R118 in order, and the record's fields by the kind of the event. -/
theorem takeEventDelivers : Obligations.TakeEventDelivers := by
  refine ⟨fun s tag b hear room => ?_, fun e => ?_⟩
  · intro answers
    have answered {t : State} {r : Result} {body : List Byte} (answer : answerTake [b] (heard s) = (t, r, body)) : answers r body t :=
      exec_immediate_answers rfl (decodeRequest_takeEvent tag [b]) hear room rfl answer
    refine ⟨fun full => answered (answerTake_heldFull full), fun few empty => answered (answerTake_empty few empty), fun e rest few first => ?_⟩
    have takes := answered (answerTake_takes (s := heard s) few first)
    rw [EventQueue.take] at takes
    have armed : (s.eq.armed && b.getLsbD 0) = if b.getLsbD 0 then s.eq.armed else false := by
      cases b.getLsbD 0 <;> simp
    rw [← armed]
    exact takes
  · obtain ⟨seq, kind, priority, arrival, redelivered⟩ := e
    refine ⟨field_of_bytes rfl seq.isLt, eventFlags_bits redelivered kind.fixPart.isSome priority, ?_⟩
    refine ⟨fun id z c g f same => ?_, fun id z c g f same => ?_, fun id c f same => ?_, fun id c f same => ?_, fun id c same => ?_,
      fun id n same => ?_, fun n same => ?_⟩ <;> obtain rfl : kind = _ := same
    case refine_1 => cases f <;> exact ⟨rfl, rfl⟩
    case refine_2 => cases f <;> exact ⟨rfl, rfl⟩
    case refine_3 => cases f <;> exact ⟨rfl, rfl⟩
    case refine_4 => cases f <;> exact ⟨rfl, rfl⟩
    all_goals exact ⟨rfl, rfl⟩

/-! ### The feed link (R160 to R166) -/

/-- A fix is received by the checks of R161, then R165, else it joins the Fix Queue. -/
theorem receiveFix_eq (s : State) (f : Fix) : receiveFix s f = fixReceived s f := by
  have bad : badFix s.params.minQuality f = decide (f.id = 0 ∨ f.reserved = true ∨ f.quality.toNat < s.params.minQuality.toNat) := by
    rw [Bool.eq_iff_iff]
    simp [badFix, or_assoc]
  have settled : FeedLink.settle { s.flr with queue := s.flr.queue ++ [f] } =
      { s.flr with queue := s.flr.queue ++ [f], fhold := fholdAt (s.flr.queue.length + 1) s.flr.fhold } := by
    simp [FeedLink.settle, fholdAt]
  simp only [receiveFix, fixReceived, bad, settled, decide_eq_true_eq, fixQueueSize]
  rfl

theorem receiveFixes_eq (fixes : List Fix) (s : State) : receiveFixes fixes s = fixes.foldl fixReceived s := by
  rw [receiveFixes, show receiveFix = fixReceived from funext fun s => funext fun f => receiveFix_eq s f]

/-- A feed frame that is heard is acted on whole (R157 to R160). -/
theorem feedFrame_heard {s : State} {type tag : Byte} {p : List Byte} (hear : FeedHears s type tag p) (act : State → State) :
    whenRunning (feedFrameArrives type tag p act) s = act (feedHeard s) := by
  obtain ⟨running, short, expected⟩ := hear
  rw [whenRunning_high _ running, feedFrameArrives, decide_eq_true short, expected]
  rfl

section Batch

variable (fixes : List Fix)

theorem fixBytes_length : (fixes.flatMap fixBytes).length = 15 * fixes.length := by
  induction fixes with
  | nil => rfl
  | cons f fixes ih =>
    have fifteen : (fixBytes f).length = 15 := rfl
    rw [List.flatMap_cons, List.length_append, ih, List.length_cons]
    omega

variable {fixes} (few : fixes.length ≤ 8)

include few

theorem fixBatch_count : (byteAt (fixBatchPayload fixes) 0).toNat = fixes.length := by
  show (BitVec.ofNat 8 fixes.length).toNat = fixes.length
  rw [BitVec.toNat_ofNat, Nat.mod_eq_of_lt (by omega)]

/-- The payload of 1 to 8 fixes passes the checks of R160, and its records are those fixes. -/
theorem feedFrame_batch (some_fix : 1 ≤ fixes.length) (s : State) :
    feedFrame 0x21 (fixBatchPayload fixes) s = fixes.foldl fixReceived s := by
  have count := fixBatch_count few
  have size : (fixBatchPayload fixes).length = 1 + 15 * fixes.length := by
    rw [fixBatchPayload, List.length_cons, fixBytes_length]
    omega
  have good : goodFeedFrame 0x21 (fixBatchPayload fixes) = true := by
    simp only [goodFeedFrame, count, size, fixBatchType, Bool.and_eq_true, decide_eq_true_eq, beq_iff_eq]
    exact ⟨⟨⟨⟨trivial, by omega⟩, some_fix⟩, few⟩, trivial⟩
  have records : fixesOf fixes.length ((fixBatchPayload fixes).drop 1) = fixes := by
    have := fixesOf_written fixes []
    rwa [List.append_nil] at this
  rw [feedFrame, good, count, records]
  exact receiveFixes_eq fixes s

end Batch

/-- A frame that fails a check of R160 is discarded whole. -/
theorem goodFeedFrame_fails {type : Byte} {p : List Byte}
    (fails : type ≠ 0x21 ∨ p.length = 0 ∨ byteAt p 0 = 0 ∨ 8 < (byteAt p 0).toNat ∨ p.length ≠ 1 + 15 * (byteAt p 0).toNat) :
    goodFeedFrame type p = false := by
  rw [Bool.eq_false_iff]
  intro good
  simp only [goodFeedFrame, fixBatchType, Bool.and_eq_true, decide_eq_true_eq, beq_iff_eq] at good
  obtain ⟨⟨⟨⟨named, some_bytes⟩, some_fix⟩, few⟩, sized⟩ := good
  rcases fails with other | empty | zero | many | size
  · exact other named
  · omega
  · rw [zero] at some_fix
    exact absurd some_fix (by decide)
  · omega
  · exact size sized

/-- Settles O49: a good frame's fixes are received one after another, and any other frame is counted. -/
theorem feedFramesAreReceived : Obligations.FeedFramesAreReceived := by
  refine ⟨fun s tag fixes hear => ⟨fun some_fix few => ⟨?_, ?_⟩, fun wrong => ?_⟩, fun s type tag p hear fails => ?_⟩
  · refine congrArg Host.Outcome.next ((feedFrame_heard hear _).trans ?_)
    rw [if_pos ⟨some_fix, few⟩, receiveFixes_eq]
  · exact congrArg Host.Outcome.next ((feedFrame_heard hear _).trans (feedFrame_batch few some_fix _))
  · refine congrArg Host.Outcome.next ((feedFrame_heard hear _).trans ?_)
    rw [if_neg (by omega)]
    rfl
  · refine congrArg Host.Outcome.next ((feedFrame_heard hear _).trans ?_)
    rw [feedFrame, goodFeedFrame_fails fails]
    rfl

end Sys2Proof.Machine
end

section
/-! SUPPORT. The reads: READ_OBJECT, LIST_OBJECTS, READ_ZONE and READ_VERTICES (R41 to R43, R69, R70). -/

namespace Sys2Proof.Machine

set_option Elab.async false

/-! ### READ_OBJECT (R69) -/

theorem decodeRequest_readObject (tag : Byte) (p : List Byte) :
    decodeRequest 0x17 tag p = immediate 0x17 tag (p.length == 4) (answerReadObject p) := rfl

section ReadObject

variable {p : List Byte} {s : State}

theorem answerReadObject_zeroId (zero : objIdAt p = 0) : answerReadObject p s = (s, .badValue, []) := by
  rw [answerReadObject, if_pos zero]

theorem answerReadObject_unknown (some_id : objIdAt p ≠ 0) (unknown : Unknown s (objIdAt p)) :
    answerReadObject p s = (s, .noObject, []) := by
  rw [answerReadObject, if_neg some_id, findObject_none.2 unknown]

theorem answerReadObject_found {i : SlotNo} (some_id : objIdAt p ≠ 0) (holds : HoldsId s i (objIdAt p)) :
    answerReadObject p s = (s, .ok, readObjectBody i (s.slots.get i)) := by
  rw [answerReadObject, if_neg some_id, findObject_of_unique holds.1 holds.2.1 holds.2.2]

end ReadObject

/-- The zones with a count that is not 0 (R69). -/
abbrev countedZones (run : Table Nat 64) : List ZoneId :=
  zonesIn fun z => decide (run.get z ≠ 0)

/-- The pairs of READ_OBJECT are the counted zones with their counts (R69). -/
theorem counterPairs_eq (run : Table Nat 64) : counterPairs run = (countedZones run).map fun z => (z, run.get z) := by
  rw [counterPairs, List.filter_map]
  congr 1
  refine List.filter_congr fun z _ => ?_
  rw [Bool.eq_iff_iff]
  simp

theorem objectFlags_bits (quiet dirty fix : Bool) (k : Nat) :
    ((0 : BitVec 5) ++ BitVec.ofBool quiet ++ BitVec.ofBool dirty ++ BitVec.ofBool fix : BitVec 8).getLsbD k =
      if k = 0 then fix else if k = 1 then dirty else if k = 2 then quiet else false := by
  have bits : ∀ (quiet dirty fix : Bool) (k : Fin 8),
      ((0 : BitVec 5) ++ BitVec.ofBool quiet ++ BitVec.ofBool dirty ++ BitVec.ofBool fix : BitVec 8).getLsbD k.val =
        if k.val = 0 then fix else if k.val = 1 then dirty else if k.val = 2 then quiet else false := by
    decide
  by_cases within : k < 8
  · exact bits quiet dirty fix ⟨k, within⟩
  · rw [if_neg (by omega), if_neg (by omega), if_neg (by omega)]
    exact BitVec.getLsbD_of_ge _ k (by omega)

theorem countedZones_length_le (run : Table Nat 64) : (countedZones run).length ≤ 64 :=
  (List.length_filter_le _ _).trans_eq (List.length_finRange)

section Body

variable (i : SlotNo) (sl : Slot)

/-- The pairs stand from byte 34 on (section 9.5). -/
theorem readObjectBody_pairs :
    (readObjectBody i sl).drop 34 = (countedZones sl.run).flatMap fun z => [BitVec.ofNat 8 z.val, BitVec.ofNat 8 (sl.run.get z)] := by
  have pairs : (readObjectBody i sl).drop 34 =
      (counterPairs sl.run).flatMap fun p => [BitVec.ofNat 8 p.1.val, BitVec.ofNat 8 p.2] := rfl
  rw [pairs, counterPairs_eq, List.flatMap_map]

theorem readObjectBody_count : field (readObjectBody i sl) 33 1 = (countedZones sl.run).length := by
  have count : (counterPairs sl.run).length = (countedZones sl.run).length := by rw [counterPairs_eq, List.length_map]
  have few := countedZones_length_le sl.run
  rw [← count] at *
  exact field_of_count rfl (by omega)

theorem readObjectBody_length : (readObjectBody i sl).length = 34 + 2 * (countedZones sl.run).length := by
  have head : 34 ≤ (readObjectBody i sl).length := by
    show 34 ≤ List.length _ + 34
    omega
  have tail := congrArg List.length (readObjectBody_pairs i sl)
  rw [List.length_drop, List.length_flatMap] at tail
  simp only [List.length_cons, List.length_nil, List.map_const', List.sum_replicate, smul_eq_mul] at tail
  omega

end Body

/-! ### LIST_OBJECTS (R70) -/

theorem decodeRequest_listObjects (tag : Byte) (p : List Byte) :
    decodeRequest 0x18 tag p = immediate 0x18 tag (p.length == 1) (answerListObjects p) := rfl

theorem nextSlot_end {found : List SlotNo} (few : found.length ≤ 16) : nextSlot found = 0xFF := by
  rw [nextSlot, List.drop_eq_nil_of_le few]

theorem nextSlot_more {found : List SlotNo} {i : SlotNo} (more : 16 < found.length) (sixteenth : found[15]? = some i) :
    nextSlot found = BitVec.ofNat 8 (i.val + 1) := by
  have last : (found.take 16).getLast? = some i := by
    rw [List.getLast?_take, sixteenth]
    rfl
  rw [nextSlot, last]
  cases above : found.drop 16 with
  | nil => simp at above; omega
  | cons j rest => rfl

theorem occupiedFrom_eq (slots : Table Slot 128) (first : Nat) : occupiedFrom slots first =
    (List.finRange 128).filter fun i : SlotNo => decide (first ≤ i.val ∧ (slots.get i).phase ≠ .free) := by
  refine List.filter_congr fun i _ => ?_
  rw [Bool.eq_iff_iff]
  simp

/-- Settles O39: the body of each read by its offsets. -/
theorem readsOfTheTable : Obligations.ReadsOfTheTable := by
  refine ⟨fun s tag p hear room four => ?_, fun s tag first hear room => ?_⟩
  · intro id answers
    have answered {r : Result} {body : List Byte} (answer : answerReadObject p (heard s) = (heard s, r, body)) : answers r body :=
      exec_immediate_answers rfl (decodeRequest_readObject tag p) hear room (beq_iff_eq.2 four) answer
    refine ⟨fun zero => answered (answerReadObject_zeroId zero), fun some_id unknown => answered (answerReadObject_unknown some_id unknown),
      fun i some_id holds => ?_⟩
    intro sl counted
    refine ⟨readObjectBody i sl, answered (answerReadObject_found (s := heard s) some_id holds), readObjectBody_length i sl, rfl, ?_, ?_, ?_, ?_,
      objectFlags_bits _ _ _, ?_, rfl, fun f some_fix => ?_, fun none_fix => ?_, field_of_bytes rfl sl.inside.isLt,
      field_of_bytes rfl sl.toldSet.isLt, readObjectBody_count i sl, readObjectBody_pairs i sl⟩
    · exact fun phase => congrArg SlotPhase.code phase
    · exact fun phase => congrArg SlotPhase.code phase
    · exact fun phase => congrArg SlotPhase.code phase
    · show (BitVec.ofNat 8 sl.cls.toNat).toNat = _
      rw [BitVec.toNat_ofNat, Nat.mod_eq_of_lt (by omega)]
    · show sl.cause.code = _
      cases sl.cause <;> rfl
    · have fix : sl.lastFix.getD ⟨0, 0, 0, 0⟩ = f := by rw [some_fix]; rfl
      rw [← fix]
      refine ⟨field_of_bytes rfl (BitVec.isLt _), ?_, ?_, ?_⟩
      · rw [coordAt, field_of_bytes rfl (BitVec.isLt (sl.lastFix.getD ⟨0, 0, 0, 0⟩).x), BitVec.ofNat_toNat, BitVec.setWidth_eq]
      · rw [coordAt, field_of_bytes rfl (BitVec.isLt (sl.lastFix.getD ⟨0, 0, 0, 0⟩).y), BitVec.ofNat_toNat, BitVec.setWidth_eq]
      · show (BitVec.ofNat 8 (sl.lastFix.getD ⟨0, 0, 0, 0⟩).quality.toNat).toNat = _
        rw [BitVec.toNat_ofNat, Nat.mod_eq_of_lt (by omega)]
    · have bytes : ((readObjectBody i sl).drop 6).take 11 = beBytes 11 0 := by
        show beBytes 4 (sl.lastFix.getD ⟨0, 0, 0, 0⟩).time.toNat ++ (coordBytes (sl.lastFix.getD ⟨0, 0, 0, 0⟩).x ++
          (coordBytes (sl.lastFix.getD ⟨0, 0, 0, 0⟩).y ++ [BitVec.ofNat 8 (sl.lastFix.getD ⟨0, 0, 0, 0⟩).quality.toNat])) = _
        rw [none_fix]
        decide
      exact field_of_bytes bytes (by omega)
  · intro answers found lists
    have answered {r : Result} {body : List Byte} (answer : answerListObjects [first] (heard s) = (heard s, r, body)) : answers r body :=
      exec_immediate_answers rfl (decodeRequest_listObjects tag [first]) hear room rfl answer
    refine ⟨fun above => answered ?_, fun within => ?_⟩
    · rw [answerListObjects, if_pos (by exact above)]
    have body (next : Byte) (same : nextSlot found = next) : lists next := by
      refine answered ?_
      rw [answerListObjects, if_neg (by exact Nat.not_lt_of_le within), listObjectsBody, occupiedFrom_eq]
      show (heard s, Result.ok, [nextSlot found, BitVec.ofNat 8 (found.take 16).length] ++ _) = _
      rw [same, List.length_take]
      rfl
    exact ⟨fun few => body _ (nextSlot_end few), fun i more sixteenth => body _ (nextSlot_more more sixteenth)⟩

/-! ### READ_ZONE (R41, R42) -/

section ReadZone

variable {zs : ZoneStore} {zb view : Byte} {z : ZoneId} (named : zb.toNat = z.val)

include named

theorem readZone_noView (above : 1 < view.toNat) : zs.readZone [zb, view] = (zs, .badValue, []) := by
  obtain ⟨n, code⟩ : ∃ n, view.toNat = n + 2 := ⟨view.toNat - 2, by omega⟩
  simp [ZoneStore.readZone, withZone_names zs (b := zb) _ named, byteAt, code]

theorem readZone_active (active : view = 0 ∨ view = 1 ∧ zs.draft.get z = .inherit) : zs.readZone [zb, view] =
    (zs, .ok, (zs.draft.get z).code :: activeView (zs.active.get z) ++ beBytes 2 (zs.active.get z).stamp.toNat) := by
  rcases active with rfl | ⟨rfl, inherit⟩
  · simp [ZoneStore.readZone, withZone_names zs (b := zb) _ named, byteAt]
  · simp [ZoneStore.readZone, withZone_names zs (b := zb) _ named, byteAt, inherit, draftView]

theorem readZone_draft (draft : view = 1) : zs.readZone [zb, view] =
    (zs, .ok, (zs.draft.get z).code :: draftView (zs.active.get z) (zs.draft.get z) ++ beBytes 2 (zs.active.get z).stamp.toNat) := by
  subst draft
  simp [ZoneStore.readZone, withZone_names zs (b := zb) _ named, byteAt]

end ReadZone

/-- The body of READ_ZONE is the entry's state, the view and the stamp (section 9.5). -/
theorem zoneBody_eq (entry state kind : Byte) (a : Attrs) (b : Box) (count : Nat) (stamp : BitVec 16) :
    zoneBody entry state kind a b count stamp = entry :: viewBytes state kind a b count ++ beBytes 2 stamp.toNat := by
  simp [zoneBody, viewBytes, boxBytes, int32Bytes]

/-! ### READ_VERTICES (R43) -/

section ReadVertices

variable {zs : ZoneStore} {zb view : Byte} {first : Nat} {z : ZoneId} (named : zb.toNat = z.val)

include named

theorem readVertices_noView (above : 1 < view.toNat) : zs.readVertices ([zb, view] ++ beBytes 2 first) = (zs, .badValue, []) := by
  obtain ⟨n, code⟩ : ∃ n, view.toNat = n + 2 := ⟨view.toNat - 2, by omega⟩
  simp [ZoneStore.readVertices, withZone_names zs (b := zb) _ named, byteAt, code]

variable (below : first < 65536)

include below

theorem readVertices_active (active : view = 0 ∨ view = 1 ∧ (zs.draft.get z = .inherit ∨ ∃ a, zs.draft.get z = .amended a)) :
    zs.readVertices ([zb, view] ++ beBytes 2 first) = zs.vertexAnswer (zs.activeVertices (zs.active.get z)) first := by
  have at_first : field ([zb, view] ++ beBytes 2 first) 2 2 = first := field_of_bytes rfl below
  rw [ZoneStore.readVertices, at_first]
  rcases active with rfl | ⟨rfl, inherit | ⟨a, amended⟩⟩
  · simp [withZone_names zs (b := zb) _ named, byteAt]
  · simp [withZone_names zs (b := zb) _ named, byteAt, inherit, ZoneStore.draftVertices]
  · simp [withZone_names zs (b := zb) _ named, byteAt, amended, ZoneStore.draftVertices]

theorem readVertices_draft (draft : view = 1) : zs.readVertices ([zb, view] ++ beBytes 2 first) =
    zs.vertexAnswer (zs.draftVertices (zs.active.get z) (zs.draft.get z)) first := by
  have at_first : field ([zb, view] ++ beBytes 2 first) 2 2 = first := field_of_bytes rfl below
  rw [ZoneStore.readVertices, at_first]
  subst draft
  simp [withZone_names zs (b := zb) _ named, byteAt]

end ReadVertices

/-- Settles O34: each read answers with the view it names, by the kind of the record or entry. -/
theorem readsOfTheStore : Obligations.ReadsOfTheStore := by
  refine ⟨fun s tag zb view hear room => ?_, fun s tag zb view first below hear room => ?_⟩
  · intro answers
    have command : ZoneCommand (.readZone tag [zb, view]) _ _ _ _ := zoneCommand_of_decode rfl (decodeRequest_readZone tag [zb, view])
    have answered {r : Result} {body : List Byte} (answer : s.zs.readZone [zb, view] = (s.zs, r, body)) : answers r body :=
      command.refuses hear room rfl answer
    refine ⟨fun above => answered (withZone_above _ _ above), fun z named => ?_⟩
    intro shows
    refine ⟨fun above => answered (readZone_noView named above), fun active => ?_, fun draft => ?_⟩
    · have shown {state kind : Byte} {a : Attrs} {b : Box} {n : Nat} (same : activeView (s.zs.active.get z) = viewBytes state kind a b n) :
          shows state kind a b n := answered (by rw [readZone_active named active, same, zoneBody_eq])
      exact ⟨fun st p record => shown (by rw [record]; rfl), fun b a st record => shown (by rw [record]; rfl),
        fun n chain b a st record => shown (by rw [record]; rfl), fun n chain b a st record => shown (by rw [record]; rfl)⟩
    · have shown {state kind : Byte} {a : Attrs} {b : Box} {n : Nat}
          (same : draftView (s.zs.active.get z) (s.zs.draft.get z) = viewBytes state kind a b n) : shows state kind a b n :=
        answered (by rw [readZone_draft named draft, same, zoneBody_eq])
      exact ⟨fun a n chain entry => shown (by rw [entry]; rfl), fun a n chain entry => shown (by rw [entry]; rfl),
        fun b a entry => shown (by rw [entry]; rfl), fun n chain b a entry => shown (by rw [entry]; rfl),
        fun n chain b a entry => shown (by rw [entry]; rfl), fun a b old st entry record => shown (by rw [entry, record]; rfl),
        fun a n chain b old st entry record => shown (by rw [entry, record]; rfl),
        fun a n chain b old st entry record => shown (by rw [entry, record]; rfl), fun entry => shown (by rw [entry]; rfl)⟩
  · intro answers
    have command : ZoneCommand (.readVertices tag ([zb, view] ++ beBytes 2 first)) _ _ _ _ :=
      zoneCommand_of_decode rfl (decodeRequest_readVertices tag ([zb, view] ++ beBytes 2 first))
    have answered {r : Result} {body : List Byte} (answer : s.zs.readVertices ([zb, view] ++ beBytes 2 first) = (s.zs, r, body)) :
        answers r body := command.refuses hear room rfl answer
    refine ⟨fun above => answered (withZone_above _ _ above), fun z named => ?_⟩
    intro reads
    have read {vs : List Point} (same : s.zs.readVertices ([zb, view] ++ beBytes 2 first) = s.zs.vertexAnswer vs first) : reads vs := by
      refine ⟨fun past => answered ?_, fun within => answered ?_⟩
      · rw [same, ZoneStore.vertexAnswer, if_pos past]
      · rw [same, ZoneStore.vertexAnswer, if_neg (Nat.not_le_of_lt within)]
        simp only [List.length_take, List.length_drop]
        rfl
    refine ⟨fun above => answered (readVertices_noView named above), fun active => ?_, fun draft => ?_⟩
    · have reads_active {vs : List Point} (same : s.zs.activeVertices (s.zs.active.get z) = vs) : reads vs :=
        read (by rw [readVertices_active named below active, same])
      exact ⟨fun rule n chain b a st record => reads_active (by rw [record]; rfl), fun b a st record => reads_active (by rw [record]; rfl),
        fun st p record => reads_active (by rw [record]; rfl)⟩
    · have reads_draft {vs : List Point} (same : s.zs.draftVertices (s.zs.active.get z) (s.zs.draft.get z) = vs) : reads vs :=
        read (by rw [readVertices_draft named below draft, same])
      exact ⟨fun rule a n chain entry => reads_draft (by rw [entry]; rfl), fun rule n chain b a entry => reads_draft (by rw [entry]; rfl),
        fun b a entry => reads_draft (by rw [entry]; rfl), fun entry => reads_draft (by rw [entry]; rfl)⟩

end Sys2Proof.Machine
end

section
/-! SUPPORT. ADD_VERTICES that passes, and CLOSE_ZONE (R13, R31, R32). -/

namespace Sys2Proof.Machine

set_option Elab.async false

/-! ### Vertices written in a chain (R23, R31) -/

section Write

variable {chain : List BlockNo} (nodup : chain.Nodup)

include nodup

/-- A vertex written in its place is read there, and every other place reads as before. -/
theorem vertexAt_writeVertex (pool : Table Block 512) {i : Nat} (room : i < 8 * chain.length) (v : Point) (k : Nat) :
    vertexAt (writeVertex pool chain i v) chain k = if k = i then v else vertexAt pool chain k := by
  have within : i / 8 < chain.length := by omega
  have mine : chain[i / 8]? = some chain[i / 8] := List.getElem?_eq_getElem within
  unfold vertexAt writeVertex
  simp only [mine]
  by_cases short : k / 8 < chain.length
  · simp only [List.getElem?_eq_getElem short]
    by_cases same : k / 8 = i / 8
    · simp only [same, Table.get_modify_self, Table.get_set, Fin.mk.injEq]
      by_cases here : k = i
      · simp [here]
      · have other : ¬ i % 8 = k % 8 := by omega
        simp [here, other]
    · have here : k ≠ i := fun h => same (by rw [h])
      have other : chain[i / 8] ≠ chain[k / 8] := fun h => same ((nodup.getElem_inj_iff.1 h).symm)
      simp only [Table.get_modify_ne _ _ other, if_neg here]
  · have here : k ≠ i := by omega
    simp only [List.getElem?_eq_none (Nat.le_of_not_lt short), if_neg here]

/-- Vertices written from a place on are read there in their order, and the places before read as before. -/
theorem vertexAt_writeVertices (vs : List Point) (pool : Table Block 512) (i : Nat) (room : i + vs.length ≤ 8 * chain.length) :
    (∀ k, k < i → vertexAt (writeVertices pool chain i vs) chain k = vertexAt pool chain k) ∧
    ∀ j (below : j < vs.length), vertexAt (writeVertices pool chain i vs) chain (i + j) = vs[j] := by
  induction vs generalizing pool i with
  | nil => exact ⟨fun _ _ => rfl, fun j below => absurd below (Nat.not_lt_zero _)⟩
  | cons v vs ih =>
    rw [List.length_cons] at room
    obtain ⟨before, written⟩ := ih (writeVertex pool chain i v) (i + 1) (by omega)
    have first := vertexAt_writeVertex nodup pool (i := i) (by omega) v
    rw [writeVertices]
    refine ⟨fun k below => ?_, fun j below => ?_⟩
    · rw [before k (by omega), first, if_neg (by omega)]
    · cases j with
      | zero =>
        show vertexAt _ chain i = v
        rw [before i (by omega), first, if_pos rfl]
      | succ j => rw [show i + (j + 1) = i + 1 + j by omega, written j (by simpa using below), List.getElem_cons_succ]

end Write

/-- A chain long enough for its vertices reads the same with more blocks behind it (R23). -/
theorem verticesOf_longer (pool : Table Block 512) {chain : List BlockNo} {n : Nat} (long : chain.length = blocksFor n) (more : List BlockNo) :
    verticesOf pool (chain ++ more) n = verticesOf pool chain n := by
  refine List.map_congr_left fun k below => ?_
  have within : k / 8 < chain.length := by
    have := List.mem_range.1 below
    rw [long, blocksFor]
    omega
  rw [vertexAt, vertexAt, List.getElem?_append_left within]

/-- The outline of a chain in which vertices have been written behind its own (R31). -/
theorem verticesOf_writeVertices {pool : Table Block 512} {chain more : List BlockNo} {n : Nat} {vs : List Point}
    (nodup : (chain ++ more).Nodup) (long : chain.length = blocksFor n) (room : n + vs.length ≤ 8 * (chain ++ more).length) :
    verticesOf (writeVertices pool (chain ++ more) n vs) (chain ++ more) (n + vs.length) = verticesOf pool chain n ++ vs := by
  obtain ⟨before, written⟩ := vertexAt_writeVertices nodup vs pool n room
  have own : (List.range n).map (vertexAt (writeVertices pool (chain ++ more) n vs) (chain ++ more)) = verticesOf pool chain n := by
    rw [← verticesOf_longer pool long more]
    exact List.map_congr_left fun k below => before k (List.mem_range.1 below)
  have added : ((List.range vs.length).map (n + ·)).map (vertexAt (writeVertices pool (chain ++ more) n vs) (chain ++ more)) = vs :=
    List.ext_getElem (by simp) fun j _ below => by simp [written j below]
  rw [verticesOf, List.range_add, List.map_append, own, added]

/-! ### ADD_VERTICES that passes (R31) -/

/-- The blocks of an entry and those of the free list are apart in a sound store (R23). -/
theorem chain_free_nodup {s : State} (sound : StoreSound s) (z : ZoneId) (k : Nat) :
    ((s.zs.draft.get z).chain ++ s.zs.freeList.take k).Nodup := by
  refine List.nodup_iff_count_le_one.2 fun b => ?_
  have one := (places_perm_iff _).1 sound.1.1 b
  have mine := count_le_chainCopies b (fun z => (s.zs.draft.get z).chain) z
  have taken := (List.take_sublist k s.zs.freeList).count_le b
  unfold ZoneStore.copies at one
  rw [List.count_append]
  omega

theorem addVertices_appends {zs : ZoneStore} {p : List Byte} {z : ZoneId} (named : (byteAt p 0).toNat = z.val)
    (count : ¬ ((byteAt p 1).toNat = 0 ∨ 16 < (byteAt p 1).toNat)) {rule : FillRule} {a : Attrs} {n : Nat} {chain : List BlockNo}
    (entry : zs.draft.get z = .opened rule a n chain) (total : n + (byteAt p 1).toNat ≤ 512)
    (space : blocksNeeded n (byteAt p 1).toNat ≤ zs.freeList.length) :
    zs.addVertices p = ({ zs with
      freeList := zs.freeList.drop (blocksNeeded n (byteAt p 1).toNat)
      pool := writeVertices zs.pool (chain ++ zs.freeList.take (blocksNeeded n (byteAt p 1).toNat)) n (verticesAt p (byteAt p 1).toNat)
      draft := zs.draft.set z (.opened rule a (n + (byteAt p 1).toNat) (chain ++ zs.freeList.take (blocksNeeded n (byteAt p 1).toNat))) },
      .ok, []) := by
  have fits : ¬ 512 < n + (byteAt p 1).toNat := by omega
  have need : blocksFor (n + (byteAt p 1).toNat) - blocksFor n = blocksNeeded n (byteAt p 1).toNat := rfl
  have enough : ¬ zs.freeList.length < blocksNeeded n (byteAt p 1).toNat := by omega
  simp [ZoneStore.addVertices, withZone_names zs _ named, count, entry, fits, need, enough]

/-- Settles O27: the chain's blocks are distinct, so each vertex is read where it was written. -/
theorem addVerticesAppends : Obligations.AddVerticesAppends := by
  intro s tag z vs rule a n chain p need chain' sound hear room some_vertex few entry total space
  have named : (byteAt p 0).toNat = z.val := by
    show (BitVec.ofNat 8 z.val).toNat = z.val
    rw [BitVec.toNat_ofNat, Nat.mod_eq_of_lt (by omega)]
  have count : (byteAt p 1).toNat = vs.length := by
    show (BitVec.ofNat 8 vs.length).toNat = vs.length
    rw [BitVec.toNat_ofNat, Nat.mod_eq_of_lt (by omega)]
  have read : verticesAt p vs.length = vs := by
    have := verticesAt_written (BitVec.ofNat 8 z.val) (BitVec.ofNat 8 vs.length) vs []
    rwa [List.append_nil] at this

  have len : lengthAllowed 0x0A p = true := by
    have size : p.length = 2 + 6 * vs.length := by
      rw [List.length_append, flatMap_vertexBytes_length]
      rfl
    show (decide (2 ≤ p.length) && p.length == 2 + 6 * (byteAt p 1).toNat) = true
    rw [count, size]
    simp
  have command : ZoneCommand (.addVertices tag p) _ _ _ _ := zoneCommand_of_decode rfl (decodeRequest_addVertices tag p)
  have held := (sound.2 z).2
  rw [entry] at held
  obtain ⟨-, -, long⟩ := held
  have appends := addVertices_appends (zs := s.zs) named (by omega) entry (by omega) (by rw [count]; exact space)
  rw [count, read] at appends
  have nodup : chain'.Nodup := by
    have apart := chain_free_nodup sound z need
    rwa [entry] at apart
  refine ⟨_, command.answers hear room len appends, verticesOf_writeVertices nodup long ?_, fun b outside =>
    writeVertices_other _ _ _ _ outside⟩
  have length : (chain ++ s.zs.freeList.take need).length = blocksFor n + need := by
    rw [List.length_append, List.length_take, Nat.min_eq_left space, long]
  rw [length]
  simp only [blocksFor, need, blocksNeeded]
  omega

/-! ### CLOSE_ZONE (R13, R32) -/

/-- The least of some numbers, as the bounding box takes it. -/
theorem foldl_min_spec {xs : List Int} (some_x : xs ≠ []) :
    xs.foldl min (xs.headD 0) ∈ xs ∧ ∀ x ∈ xs, xs.foldl min (xs.headD 0) ≤ x := by
  obtain ⟨x, xs, rfl⟩ := List.exists_cons_of_ne_nil some_x
  have least : (x :: xs).min? = some ((x :: xs).foldl min ((x :: xs).headD 0)) := by simp [List.min?]
  exact List.min?_eq_some_iff.1 least

/-- The greatest of some numbers, as the bounding box takes it. -/
theorem foldl_max_spec {xs : List Int} (some_x : xs ≠ []) :
    xs.foldl max (xs.headD 0) ∈ xs ∧ ∀ x ∈ xs, x ≤ xs.foldl max (xs.headD 0) := by
  obtain ⟨x, xs, rfl⟩ := List.exists_cons_of_ne_nil some_x
  have greatest : (x :: xs).max? = some ((x :: xs).foldl max ((x :: xs).headD 0)) := by simp [List.max?]
  exact List.max?_eq_some_iff.1 greatest

/-- The bounding box holds every vertex, and a vertex stands at each of its sides (R13). -/
theorem boundingBox_spec {vs : List Point} (some_vertex : vs ≠ []) :
    (∀ v ∈ vs, (boundingBox vs).xmin ≤ v.x.toInt ∧ v.x.toInt < (boundingBox vs).xmax ∧
      (boundingBox vs).ymin ≤ v.y.toInt ∧ v.y.toInt < (boundingBox vs).ymax) ∧
    (∃ v ∈ vs, v.x.toInt = (boundingBox vs).xmin) ∧ (∃ v ∈ vs, v.x.toInt + 1 = (boundingBox vs).xmax) ∧
    (∃ v ∈ vs, v.y.toInt = (boundingBox vs).ymin) ∧ (∃ v ∈ vs, v.y.toInt + 1 = (boundingBox vs).ymax) := by
  have some_x : vs.map (fun p => p.x.toInt) ≠ [] := by simpa using some_vertex
  have some_y : vs.map (fun p => p.y.toInt) ≠ [] := by simpa using some_vertex
  obtain ⟨left, leftmost⟩ := foldl_min_spec some_x
  obtain ⟨right, rightmost⟩ := foldl_max_spec some_x
  obtain ⟨low, lowest⟩ := foldl_min_spec some_y
  obtain ⟨high, highest⟩ := foldl_max_spec some_y
  have side {f : Point → Int} {m : Int} (at_side : m ∈ vs.map f) : ∃ v ∈ vs, f v = m := List.mem_map.1 at_side
  refine ⟨fun v member => ⟨leftmost _ (List.mem_map_of_mem member), Int.lt_add_one_of_le (rightmost _ (List.mem_map_of_mem member)),
    lowest _ (List.mem_map_of_mem member), Int.lt_add_one_of_le (highest _ (List.mem_map_of_mem member))⟩, side left, ?_, side low, ?_⟩
  · obtain ⟨v, member, same⟩ := side right
    exact ⟨v, member, congrArg (· + 1) same⟩
  · obtain ⟨v, member, same⟩ := side high
    exact ⟨v, member, congrArg (· + 1) same⟩

/-- An outline has no extent when all its vertices share one x, or all one y (R13). -/
theorem flat_iff {vs : List Point} (some_vertex : vs ≠ []) :
    flat vs = true ↔ (∀ v ∈ vs, ∀ w ∈ vs, v.x = w.x) ∨ (∀ v ∈ vs, ∀ w ∈ vs, v.y = w.y) := by
  obtain ⟨inside, ⟨l, ml, left⟩, ⟨r, mr, right⟩, ⟨b, mb, low⟩, ⟨t, mt, high⟩⟩ := boundingBox_spec some_vertex
  simp only [flat, Bool.or_eq_true, decide_eq_true_eq]
  refine or_congr ⟨fun thin v mv w mw => ?_, fun same => ?_⟩ ⟨fun thin v mv w mw => ?_, fun same => ?_⟩
  · have := inside v mv
    have := inside w mw
    exact BitVec.eq_of_toInt_eq (by omega)
  · have := congrArg BitVec.toInt (same l ml r mr)
    omega
  · have := inside v mv
    have := inside w mw
    exact BitVec.eq_of_toInt_eq (by omega)
  · have := congrArg BitVec.toInt (same b mb t mt)
    omega

section Close

variable {zs : ZoneStore} {p : List Byte} {z : ZoneId} (named : (byteAt p 0).toNat = z.val)

include named

theorem closeZone_notOpen (closed : (zs.draft.get z).isOpen = false) : zs.closeZone p = (zs, .zoneState, []) := by
  cases entry : zs.draft.get z <;> simp_all [ZoneStore.closeZone, withZone_names zs _ named, DraftEntry.isOpen]

variable {rule : FillRule} {a : Attrs} {n : Nat} {chain : List BlockNo} (entry : zs.draft.get z = .opened rule a n chain)

include entry

theorem closeZone_badShape (bad : n < 3 ∨ flat (verticesOf zs.pool chain n) = true) : zs.closeZone p = (zs, .badShape, []) := by
  simp [ZoneStore.closeZone, withZone_names zs _ named, entry, bad]

theorem closeZone_closes (enough : 3 ≤ n) (extent : flat (verticesOf zs.pool chain n) = false) : zs.closeZone p =
    (zs.setEntry z (.closed (.polygon rule n chain (boundingBox (verticesOf zs.pool chain n))) a), .ok, []) := by
  have fits : ¬ n < 3 := by omega
  simp [ZoneStore.closeZone, withZone_names zs _ named, entry, fits, extent]

end Close

/-- Settles O28: by the entry's state, the count and the extent. -/
theorem closeZoneCompletes : Obligations.CloseZoneCompletes := by
  intro s tag z hear room c
  have command : ZoneCommand c _ _ _ _ := zoneCommand_of_decode rfl (decodeRequest_closeZone tag [BitVec.ofNat 8 z.val])
  have named : (byteAt [BitVec.ofNat 8 z.val] 0).toNat = z.val := by
    show (BitVec.ofNat 8 z.val).toNat = z.val
    rw [BitVec.toNat_ofNat, Nat.mod_eq_of_lt (by omega)]
  refine ⟨fun closed => command.refuses hear room rfl (closeZone_notOpen named closed), fun rule a n chain entry => ?_⟩
  intro vs
  have length : vs.length = n := verticesOf_length _ _ _
  refine ⟨fun bad => command.refuses hear room rfl (closeZone_badShape named entry ?_), fun enough wide high => ?_⟩
  · by_cases few : n < 3
    · exact .inl few
    · have some_vertex : vs ≠ [] := fun empty => by rw [empty] at length; exact few (by rw [← length]; decide)
      exact .inr ((flat_iff some_vertex).2 (bad.resolve_left few))
  · have some_vertex : vs ≠ [] := fun empty => by rw [empty, List.length_nil] at length; omega
    have extent : flat vs = false := Bool.eq_false_iff.2 fun thin => by
      obtain ⟨v, mv, w, mw, x⟩ := wide
      obtain ⟨v', mv', w', mw', y⟩ := high
      exact ((flat_iff some_vertex).1 thin).elim (fun same => x (same v mv w mw)) fun same => y (same v' mv' w' mw')
    exact ⟨boundingBox vs, command.answers hear room rfl (closeZone_closes named entry enough extent), boundingBox_spec some_vertex⟩

end Sys2Proof.Machine
end

section
/-! SUPPORT. The inside test: an outline as a closed walk, and what its crossings do not depend on (R5 to R14). -/

namespace Sys2Proof.Machine

set_option Elab.async false

/-! ### An outline as a closed walk -/

/-- The steps of a walk from point to point. -/
def steps (l : List Point) : List (Point × Point) :=
  l.zip l.tail

theorem steps_cons_cons (a b : Point) (l : List Point) : steps (a :: b :: l) = (a, b) :: steps (b :: l) := rfl

/-- A walk through a point is the walk to it and the walk from it. -/
theorem steps_append (l : List Point) (v : Point) (r : List Point) : steps (l ++ v :: r) = steps (l ++ [v]) ++ steps (v :: r) := by
  induction l with
  | nil => rfl
  | cons a l ih =>
    cases l with
    | nil => rfl
    | cons b l => exact congrArg ((a, b) :: ·) ih

/-- A walk taken backwards takes each step backwards. -/
theorem steps_reverse (l : List Point) : steps l.reverse = ((steps l).map Prod.swap).reverse := by
  induction l with
  | nil => rfl
  | cons a l ih =>
    cases l with
    | nil => rfl
    | cons b l =>
      have walk : (a :: b :: l).reverse = l.reverse ++ b :: [a] := by simp
      have before : steps (l.reverse ++ [b]) = ((steps (b :: l)).map Prod.swap).reverse := by rw [← ih, List.reverse_cons]
      rw [walk, steps_append, before, steps_cons_cons a b l, List.map_cons, List.reverse_cons]
      rfl

theorem mem_steps {l : List Point} {e : Point × Point} (h : e ∈ steps l) : e.1 ∈ l ∧ e.2 ∈ l :=
  let ⟨first, second⟩ := List.of_mem_zip h
  ⟨first, List.mem_of_mem_tail second⟩

/-- The edges of an outline are the steps of its closed walk (R6). -/
theorem edges_cons (v : Point) (vs : List Point) : edges (v :: vs) = steps (v :: vs ++ [v]) := by
  have closed : steps (v :: vs ++ [v]) = (v :: vs ++ [v]).zip ((vs ++ [v]) ++ []) := by
    rw [List.append_nil]
    rfl
  rw [closed, List.zip_append (by simp), List.zip_nil_right, List.append_nil]
  rfl

theorem mem_edges {vs : List Point} {e : Point × Point} (h : e ∈ edges vs) : e.1 ∈ vs ∧ e.2 ∈ vs := by
  cases vs with
  | nil => cases h
  | cons v vs =>
    rw [edges_cons] at h
    obtain ⟨first, second⟩ := mem_steps h
    have own (p : Point) (on : p ∈ v :: vs ++ [v]) : p ∈ v :: vs := by
      rcases List.mem_append.1 on with on | on
      · exact on
      · exact List.mem_singleton.1 on ▸ List.mem_cons_self
    exact ⟨own _ first, own _ second⟩

/-! ### Crossings (R7 to R10) -/

section Point

variable (x y : Int)

/-- How many of these edges are crossed upward. -/
def ups (es : List (Point × Point)) : Nat :=
  es.countP fun e => crosses e.1 e.2 x y

/-- How many of these edges are crossed downward. -/
def downs (es : List (Point × Point)) : Nat :=
  es.countP fun e => crosses e.2 e.1 x y

/-- A fill rule by the numbers of upward and downward crossings (R9, R10). -/
def filled : FillRule → Nat → Nat → Bool
  | .evenOdd, up, down => (up + down) % 2 == 1
  | .nonzero, up, down => up != down

theorem decide_crossed (a b : Point) : decide (CrossedBy a b x y) = crosses a b x y := by
  rw [Bool.eq_iff_iff, decide_eq_true_iff, crosses_iff]

theorem upwardCrossings_eq (vs : List Point) : upwardCrossings vs x y = ups x y (edges vs) := by
  rw [upwardCrossings, ups, edges_eq, List.countP_map, List.countP_eq_length_filter]
  exact congrArg List.length (List.filter_congr fun i _ => decide_crossed x y _ _)

theorem downwardCrossings_eq (vs : List Point) : downwardCrossings vs x y = downs x y (edges vs) := by
  rw [downwardCrossings, downs, edges_eq, List.countP_map, List.countP_eq_length_filter]
  exact congrArg List.length (List.filter_congr fun i _ => decide_crossed x y _ _)

theorem ups_cons (a b : Point) (es : List (Point × Point)) : ups x y ((a, b) :: es) = ups x y es + (crosses a b x y).toNat := by
  rw [ups, List.countP_cons, ups]
  cases crosses a b x y <;> rfl

theorem downs_cons (a b : Point) (es : List (Point × Point)) : downs x y ((a, b) :: es) = downs x y es + (crosses b a x y).toNat := by
  rw [downs, List.countP_cons, downs]
  cases crosses b a x y <;> rfl

/-- An edge counts once, up or down, or not at all (R7, R8). -/
theorem contribution_crosses (a b : Point) : (crosses a b x y = false ∨ crosses b a x y = false) ∧
    contribution x y (a, b) = ((crosses a b x y).toNat : Int) - (crosses b a x y).toNat := by
  have one_way : crosses a b x y = false ∨ crosses b a x y = false := by
    by_contra both
    simp only [not_or, Bool.not_eq_false] at both
    exact not_crossed_both ((crosses_iff a b x y).1 both.1) ((crosses_iff b a x y).1 both.2)
  refine ⟨one_way, ?_⟩
  rw [contribution_eq]
  by_cases up : CrossedBy a b x y
  · have up' := (crosses_iff a b x y).2 up
    rw [if_pos up, up', one_way.resolve_left (by simp [up'])]
    rfl
  · have up' : crosses a b x y = false := Bool.eq_false_iff.2 fun h => up ((crosses_iff a b x y).1 h)
    by_cases down : CrossedBy b a x y
    · rw [if_neg up, if_pos down, up', (crosses_iff b a x y).2 down]
      rfl
    · rw [if_neg up, if_neg down, up', Bool.eq_false_iff.2 fun h => down ((crosses_iff b a x y).1 h)]
      rfl

theorem crossings_sum (es : List (Point × Point)) :
    (es.filter fun e => contribution x y e != 0).length = ups x y es + downs x y es ∧
    (es.map (contribution x y)).sum = (ups x y es : Int) - downs x y es := by
  induction es with
  | nil => exact ⟨rfl, rfl⟩
  | cons e es ih =>
    obtain ⟨count, sum⟩ := ih
    obtain ⟨a, b⟩ := e
    obtain ⟨one_way, value⟩ := contribution_crosses x y a b
    rw [ups_cons, downs_cons]
    constructor
    · rw [List.filter_cons, value]
      rcases one_way with up | down
      · cases crosses b a x y <;> simp [up, count]
        omega
      · cases crosses a b x y <;> simp [down, count]
        omega
    · rw [List.map_cons, List.sum_cons, sum, value]
      omega

/-- What a fill rule makes of an outline depends on the crossings alone (R9, R10). -/
theorem fillInside_eq (rule : FillRule) (vs : List Point) :
    fillInside rule vs x y = filled rule (ups x y (edges vs)) (downs x y (edges vs)) := by
  obtain ⟨count, sum⟩ := crossings_sum x y (edges vs)
  cases rule with
  | evenOdd => rw [fillInside, crossingCount, count]; rfl
  | nonzero =>
    rw [fillInside, windingSum, sum, filled, Bool.eq_iff_iff]
    simp only [bne_iff_ne, ne_eq]
    omega

theorem filled_swap (rule : FillRule) (up down : Nat) : filled rule up down = filled rule down up := by
  cases rule with
  | evenOdd => rw [filled, filled, Nat.add_comm]
  | nonzero => exact bne_comm

theorem filled_same (rule : FillRule) (n : Nat) : filled rule n n = false := by
  cases rule with
  | evenOdd =>
    have even : (n + n) % 2 = 0 := by omega
    simp [filled, even]
  | nonzero => simp [filled]

/-- One crossing more one way than the other is inside by both rules, when neither count passes 1. -/
theorem filled_bits (rule : FillRule) (up down : Bool) : filled rule up.toNat down.toNat = (up != down) := by
  cases rule <;> cases up <;> cases down <;> rfl

theorem ups_append (as bs : List (Point × Point)) : ups x y (as ++ bs) = ups x y as + ups x y bs :=
  List.countP_append

theorem downs_append (as bs : List (Point × Point)) : downs x y (as ++ bs) = downs x y as + downs x y bs :=
  List.countP_append

/-- A step that stays where it is is not crossed (R8). -/
theorem crosses_self (v : Point) : crosses v v x y = false :=
  Bool.eq_false_iff.2 fun h => absurd ((crosses_iff v v x y).1 h).lower_lt (lt_irrefl _)

/-- A repeated point on a walk changes no crossing (R8). -/
theorem crossings_repeat (l : List Point) (v : Point) (r : List Point) :
    ups x y (steps (l ++ v :: v :: r)) = ups x y (steps (l ++ v :: r)) ∧
    downs x y (steps (l ++ v :: v :: r)) = downs x y (steps (l ++ v :: r)) := by
  rw [steps_append l v (v :: r), steps_cons_cons, steps_append l v r]
  simp only [ups_append, downs_append, ups_cons, downs_cons, crosses_self]
  exact ⟨rfl, rfl⟩

theorem ups_reversed (es : List (Point × Point)) : ups x y ((es.map Prod.swap).reverse) = downs x y es := by
  rw [ups, List.countP_reverse, List.countP_map]
  rfl

theorem downs_reversed (es : List (Point × Point)) : downs x y ((es.map Prod.swap).reverse) = ups x y es := by
  rw [downs, List.countP_reverse, List.countP_map]
  rfl

/-- Where a closed walk begins changes no edge (R6). -/
theorem edges_rotate (v : Point) (vs : List Point) : (edges (vs ++ [v])).Perm (edges (v :: vs)) := by
  cases vs with
  | nil => exact .refl _
  | cons w vs =>
    have rotated : edges (w :: vs ++ [v]) = steps (w :: vs ++ [v]) ++ [(v, w)] := by
      have closed := edges_cons w (vs ++ [v])
      have last := steps_append (w :: vs) v [w]
      rw [show w :: vs ++ v :: [w] = w :: (vs ++ [v]) ++ [w] by simp] at last
      exact closed.trans last
    rw [rotated, edges_cons]
    exact List.perm_append_comm

/-! ### What changes nothing (R8, R11, R12, R14) -/

/-- An outline taken backwards holds the same points (R12). -/
theorem fillInside_reverse (rule : FillRule) (vs : List Point) : fillInside rule vs.reverse x y = fillInside rule vs x y := by
  cases vs with
  | nil => rfl
  | cons v vs =>
    have turned : edges (v :: vs.reverse) = ((edges (v :: vs)).map Prod.swap).reverse := by
      rw [edges_cons, edges_cons, ← steps_reverse]
      simp
    have rotated := edges_rotate v vs.reverse
    have up : ups x y (edges (vs.reverse ++ [v])) = downs x y (edges (v :: vs)) := by
      rw [← ups_reversed, ← turned]
      exact rotated.countP_eq _
    have down : downs x y (edges (vs.reverse ++ [v])) = ups x y (edges (v :: vs)) := by
      rw [← downs_reversed, ← turned]
      exact rotated.countP_eq _
    rw [List.reverse_cons, fillInside_eq, fillInside_eq, up, down, filled_swap]

/-- A vertex given twice in a row holds the same points (R8). -/
theorem fillInside_repeat (rule : FillRule) (front : List Point) (v : Point) (back : List Point) :
    fillInside rule (front ++ v :: v :: back) x y = fillInside rule (front ++ v :: back) x y := by
  have same : ups x y (edges (front ++ v :: v :: back)) = ups x y (edges (front ++ v :: back)) ∧
      downs x y (edges (front ++ v :: v :: back)) = downs x y (edges (front ++ v :: back)) := by
    cases front with
    | nil =>
      rw [List.nil_append, List.nil_append, edges_cons, edges_cons]
      exact crossings_repeat x y [] v (back ++ [v])
    | cons w front =>
      have walk (l : List Point) : edges (w :: front ++ l) = steps (w :: front ++ (l ++ [w])) := by
        rw [List.cons_append, edges_cons, List.cons_append, List.append_assoc]
        rfl
      rw [walk, walk]
      exact crossings_repeat x y (w :: front) v (back ++ [w])
  rw [fillInside_eq, fillInside_eq, same.1, same.2]

/-- The first vertex given again at the end holds the same points (R8). -/
theorem fillInside_closed (rule : FillRule) (v : Point) (vs : List Point) :
    fillInside rule (v :: vs ++ [v]) x y = fillInside rule (v :: vs) x y := by
  have walk : edges (v :: vs ++ [v]) = steps (v :: vs ++ v :: [v]) := by
    rw [List.cons_append, edges_cons, List.cons_append, List.append_assoc]
    rfl
  obtain ⟨up, down⟩ := crossings_repeat x y (v :: vs) v []
  rw [fillInside_eq, fillInside_eq, walk, edges_cons, up, down]

section Outside

variable {x y} {vs : List Point}

/-- With no edge crossed the point is outside (R9, R10). -/
theorem fillInside_uncrossed (rule : FillRule) (clear : ∀ a ∈ vs, ∀ b ∈ vs, ¬ CrossedBy a b x y) : fillInside rule vs x y = false := by
  have up : ups x y (edges vs) = 0 := List.countP_eq_zero.2 fun e member crossed =>
    clear _ (mem_edges member).1 _ (mem_edges member).2 ((crosses_iff _ _ x y).1 crossed)
  have down : downs x y (edges vs) = 0 := List.countP_eq_zero.2 fun e member crossed =>
    clear _ (mem_edges member).2 _ (mem_edges member).1 ((crosses_iff _ _ x y).1 crossed)
  rw [fillInside_eq, up, down, filled_same]

/-- No edge is crossed from a row at or above every vertex, nor from one below every vertex (R7). -/
theorem not_crossed_row {a b : Point} (outside : b.y.toInt ≤ y ∨ y < a.y.toInt) : ¬ CrossedBy a b x y := by
  rintro ⟨low, high, -⟩
  omega

/-- No edge is crossed from a column at or right of both its ends (R7). -/
theorem not_crossed_right {a b : Point} (left : a.x.toInt ≤ x) (right : b.x.toInt ≤ x) : ¬ CrossedBy a b x y := by
  rintro ⟨low, high, side⟩
  nlinarith [mul_nonneg (sub_nonneg.2 right) (sub_nonneg.2 low), mul_nonneg (sub_nonneg.2 left) (sub_nonneg.2 high.le)]

/-- An edge right of the point is crossed exactly when its row span holds the point's row (R7). -/
theorem crosses_left {a b : Point} (left : x < a.x.toInt) (right : x < b.x.toInt) :
    crosses a b x y = (decide (a.y.toInt ≤ y) && !decide (b.y.toInt ≤ y)) := by
  rw [Bool.eq_iff_iff, crosses_iff, Bool.and_eq_true, Bool.not_eq_true', decide_eq_true_iff, decide_eq_false_iff_not, Int.not_le]
  refine ⟨fun ⟨low, high, _⟩ => ⟨low, high⟩, fun ⟨low, high⟩ => ⟨low, high, ?_⟩⟩
  nlinarith [mul_nonneg (sub_nonneg.2 low) (sub_nonneg.2 right.le), mul_pos (sub_pos.2 left) (sub_pos.2 high)]

/-- A walk right of the point crosses its row upward as often as downward, but for where it begins and ends. -/
theorem crossings_walk (l : List Point) (a b : Point) (right : ∀ p ∈ a :: l ++ [b], x < p.x.toInt) :
    ups x y (steps (a :: l ++ [b])) + (decide (b.y.toInt ≤ y)).toNat =
      downs x y (steps (a :: l ++ [b])) + (decide (a.y.toInt ≤ y)).toNat := by
  have one (a b : Point) (left : x < a.x.toInt) (right : x < b.x.toInt) :
      (crosses a b x y).toNat + (decide (b.y.toInt ≤ y)).toNat = (crosses b a x y).toNat + (decide (a.y.toInt ≤ y)).toNat := by
    rw [crosses_left left right, crosses_left right left]
    cases decide (a.y.toInt ≤ y) <;> cases decide (b.y.toInt ≤ y) <;> rfl
  induction l generalizing a with
  | nil =>
    have step := one a b (right a (by simp)) (right b (by simp))
    show ups x y ((a, b) :: []) + _ = downs x y ((a, b) :: []) + _
    rw [ups_cons, downs_cons, ups, downs, List.countP_nil, List.countP_nil]
    omega
  | cons c l ih =>
    have step := one a c (right a (by simp)) (right c (by simp))
    have rest := ih c fun p member => right p (List.mem_cons_of_mem a member)
    show ups x y ((a, c) :: steps (c :: l ++ [b])) + _ = downs x y ((a, c) :: steps (c :: l ++ [b])) + _
    rw [ups_cons, downs_cons]
    omega

/-- A point left of every vertex is outside: each edge that its row meets is crossed, and a closed walk comes back (R14). -/
theorem fillInside_left (rule : FillRule) (right : ∀ p ∈ vs, x < p.x.toInt) : fillInside rule vs x y = false := by
  cases vs with
  | nil => cases rule <;> rfl
  | cons v vs =>
    have around := crossings_walk (y := y) vs v v fun p member => right p ((List.mem_append.1 member).elim id fun last => by
      rw [List.mem_singleton.1 last]
      exact List.mem_cons_self)
    rw [fillInside_eq, edges_cons, Nat.add_right_cancel around, filled_same]

/-- The prefilter of R14 refuses no point that the edges give. -/
theorem fillInside_outside_box (rule : FillRule) (outside : (boundingBox vs).holds x y = false) : fillInside rule vs x y = false := by
  cases vs with
  | nil => cases rule <;> rfl
  | cons v vs =>
    obtain ⟨inside, -⟩ := boundingBox_spec (vs := v :: vs) (by simp)
    have beyond : x < (boundingBox (v :: vs)).xmin ∨ (boundingBox (v :: vs)).xmax ≤ x ∨ y < (boundingBox (v :: vs)).ymin ∨
        (boundingBox (v :: vs)).ymax ≤ y := by
      by_contra within
      simp only [not_or, Int.not_lt, Int.not_le] at within
      simp [Box.holds, within] at outside
    rcases beyond with left | right | low | high
    · exact fillInside_left rule fun p member => by have := inside p member; omega
    · exact fillInside_uncrossed rule fun a ha b hb => not_crossed_right (by have := inside a ha; omega) (by have := inside b hb; omega)
    · exact fillInside_uncrossed rule fun a ha b hb => not_crossed_row (.inr (by have := inside a ha; omega))
    · exact fillInside_uncrossed rule fun a ha b hb => not_crossed_row (.inl (by have := inside b hb; omega))

/-- No outline holds a point of the last column or the last row (R11). -/
theorem fillInside_last (rule : FillRule) (last : 8388607 ≤ x ∨ 8388607 ≤ y) : fillInside rule vs x y = false := by
  have most (c : Coord) : c.toInt ≤ 8388607 := by
    have := BitVec.toInt_lt (x := c)
    omega
  refine fillInside_uncrossed rule fun a _ b _ => ?_
  rcases last with right | high
  · exact not_crossed_right ((most _).trans right) ((most _).trans right)
  · exact not_crossed_row (.inl ((most _).trans high))

/-- A rectangle holds the points of its half-open box (R11). -/
theorem fillInside_rectangle (rule : FillRule) {a b c d : Coord} (wide : a.toInt < c.toInt) (high : b.toInt < d.toInt) :
    fillInside rule [⟨a, b⟩, ⟨c, b⟩, ⟨c, d⟩, ⟨a, d⟩] x y = true ↔ a.toInt ≤ x ∧ x < c.toInt ∧ b.toInt ≤ y ∧ y < d.toInt := by
  have rising (p q : Point) (not_higher : q.y.toInt ≤ p.y.toInt) : crosses p q x y = false :=
    Bool.eq_false_iff.2 fun h => absurd ((crosses_iff p q x y).1 h).lower_lt not_higher.not_gt
  have side (e : Coord) : crosses ⟨e, b⟩ ⟨e, d⟩ x y = true ↔ b.toInt ≤ y ∧ y < d.toInt ∧ x < e.toInt := by
    rw [crosses_iff]
    refine and_congr_right fun _ => and_congr_right fun _ => ?_
    constructor
    · intro h
      nlinarith
    · intro h
      nlinarith [mul_pos (sub_pos.2 h) (sub_pos.2 high)]
  have walk : edges [⟨a, b⟩, ⟨c, b⟩, ⟨c, d⟩, ⟨a, d⟩] =
      [(⟨a, b⟩, ⟨c, b⟩), (⟨c, b⟩, ⟨c, d⟩), (⟨c, d⟩, ⟨a, d⟩), (⟨a, d⟩, ⟨a, b⟩)] := rfl
  have up : ups x y (edges [⟨a, b⟩, ⟨c, b⟩, ⟨c, d⟩, ⟨a, d⟩]) = (crosses ⟨c, b⟩ ⟨c, d⟩ x y).toNat := by
    rw [walk, ups_cons, ups_cons, ups_cons, ups_cons, rising ⟨a, b⟩ ⟨c, b⟩ le_rfl, rising ⟨c, d⟩ ⟨a, d⟩ le_rfl, rising ⟨a, d⟩ ⟨a, b⟩ high.le]
    simp [ups]
  have down : downs x y (edges [⟨a, b⟩, ⟨c, b⟩, ⟨c, d⟩, ⟨a, d⟩]) = (crosses ⟨a, b⟩ ⟨a, d⟩ x y).toNat := by
    rw [walk, downs_cons, downs_cons, downs_cons, downs_cons, rising ⟨c, b⟩ ⟨a, b⟩ le_rfl, rising ⟨a, d⟩ ⟨c, d⟩ le_rfl,
      rising ⟨c, d⟩ ⟨c, b⟩ high.le]
    simp [downs]
  rw [fillInside_eq, up, down, filled_bits, bne_iff_ne, ne_eq, Bool.eq_iff_iff, side, side]
  omega

end Outside

end Point

/-- Settles O35: the crossings alone decide, and a point outside the box of the vertices has as many upward ones as downward ones. -/
theorem prefilterGivesTheEdgeTest : Obligations.PrefilterGivesTheEdgeTest := by
  refine ⟨fun pool b x y => ?_, fun pool rule n chain x y => ?_, fun vs x y => ?_, fun rule x y =>
    ⟨fun vs => fillInside_outside_box rule, fillInside_reverse x y rule, fillInside_repeat x y rule, fillInside_closed x y rule,
      fun a b c d wide high vs order => ?_, fun vs => fillInside_last rule⟩⟩
  · simp only [geometricResult, Box.holds, Bool.and_eq_true, decide_eq_true_eq, and_assoc]
  · intro vs
    show ((boundingBox vs).holds x y && fillInside rule vs x y) = fillInside rule vs x y
    cases holds : (boundingBox vs).holds x y with
    | true => rfl
    | false => rw [fillInside_outside_box rule holds]; rfl
  · rw [upwardCrossings_eq, downwardCrossings_eq, fillInside_eq, fillInside_eq]
    exact ⟨by simp [filled], by simp [filled]⟩
  · rcases List.mem_cons.1 order with rfl | order
    · exact fillInside_rectangle rule wide high
    · obtain rfl := List.mem_singleton.1 order
      rw [show [(⟨a, d⟩ : Point), ⟨c, d⟩, ⟨c, b⟩, ⟨a, b⟩] = [(⟨a, b⟩ : Point), ⟨c, b⟩, ⟨c, d⟩, ⟨a, d⟩].reverse from rfl, fillInside_reverse]
      exact fillInside_rectangle rule wide high

end Sys2Proof.Machine
end

section
/-! SUPPORT. The idle step, and what a millisecond brings to the timers (R1, R55, R58, R73, R82, R88, R120, R137, R158). -/

namespace Sys2Proof.Machine

set_option Elab.async false

/-! ### A millisecond on one timer (R1) -/

theorem Timer.tick_eq (t : Timer) : t.tick = t.counted := by
  cases t <;> rfl

theorem Timer.tick_overdue (t : Timer) : t.tick.overdue = !t.lasts := by
  cases t with
  | stopped => rfl
  | running length elapsed =>
    rw [Bool.eq_iff_iff]
    simp [Timer.tick, Timer.overdue, Timer.lasts]

theorem Framer.tick_eq (f : Framer) : f.tick = f.counted := by
  cases f <;> rfl

theorem Framer.tick_overdue (f : Framer) : f.tick.gapOverdue = !f.lasts := by
  cases f with
  | hunt => rfl
  | frame stored gap =>
    rw [Bool.eq_iff_iff]
    simp [Framer.tick, Framer.gapOverdue, Framer.lasts, gapTime]

/-- A framer a millisecond later: its gap timer counts, or the frame is abandoned (R1, R137). -/
theorem Framer.afterMillisecond_eq (f : Framer) : f.afterMillisecond = if f.lasts then f.counted else .hunt := by
  rw [Framer.afterMillisecond, Framer.tick_overdue, Framer.tick_eq]
  cases f.lasts <;> rfl

/-- Time alone: the model's count is the one in words (R1). -/
theorem countMillisecond_eq (s : State) : countMillisecond s = counted s := by
  simp only [countMillisecond, counted, Framer.tick_eq, Timer.tick_eq]
  congr 2

/-! ### The expiries of the slots (R55, R58) -/

/-- The slot's timer stands at its latest moment, in the state of the lifecycle that it is for (R1, R56, R59). -/
def Slot.overdue (sl : Slot) : Bool :=
  (sl.phase == .tracked && sl.quietTimer.overdue) || (sl.phase == .quiet && sl.retireTimer.overdue)

theorem Slot.tick_overdue (sl : Slot) : sl.tick.overdue = !sl.lasts := by
  simp only [Slot.overdue, Slot.tick, Timer.tick_overdue, Slot.lasts]
  cases sl.phase <;> cases sl.quietTimer.lasts <;> cases sl.retireTimer.lasts <;> rfl

theorem expireSlot_waits {s : State} {i : SlotNo} (waits : (s.slots.get i).overdue = false) : expireSlot s i = s := by
  simp only [Slot.overdue, Bool.or_eq_false_iff] at waits
  rw [expireSlot, waits.1, waits.2]
  rfl

theorem expireSlot_other {s : State} {i j : SlotNo} (other : j ≠ i) : (expireSlot s i).slots.get j = s.slots.get j := by
  unfold expireSlot
  dsimp only
  split
  · rw [becomeQuiet, freshGroup_other (properGroup_quiet (by simp [quietSlot]) _ _) other, State.withSlots_slots,
      Table.get_set_ne _ _ other.symm]
  · split
    · rw [retireObject_eq, freshGroup_other (properGroup_retire (by simp [Slot.left]) _ _) other, State.withSlots_slots,
        Table.get_set_ne _ _ other.symm]
    · rfl

theorem expireSlots_wait (l : List SlotNo) {s : State} (wait : ∀ i ∈ l, (s.slots.get i).overdue = false) : l.foldl expireSlot s = s := by
  induction l with
  | nil => rfl
  | cons i l ih =>
    rw [List.foldl_cons, expireSlot_waits (wait i (by simp))]
    exact ih fun j later => wait j (by simp [later])

/-- A slot whose timer is not at its latest moment keeps its place in the table through the expiries of the others (R1). -/
theorem expireSlots_kept (l : List SlotNo) {s : State} {i : SlotNo} (waits : (s.slots.get i).overdue = false) :
    (l.foldl expireSlot s).slots.get i = s.slots.get i := by
  induction l generalizing s with
  | nil => rfl
  | cons j l ih =>
    have first : (expireSlot s j).slots.get i = s.slots.get i := by
      by_cases same : i = j
      · rw [← same, expireSlot_waits waits]
      · exact expireSlot_other same
    rw [List.foldl_cons, ih (by rw [first]; exact waits), first]

/-- With one slot's timer at its latest moment, that slot's expiry is all there is (R1). -/
theorem expireSlots_one {s : State} (i : SlotNo) (others : ∀ j, j ≠ i → (s.slots.get j).overdue = false) :
    (List.finRange 128).foldl expireSlot s = expireSlot s i := by
  obtain ⟨before, after, split⟩ := List.append_of_mem (List.mem_finRange i)
  have nodup := List.nodup_finRange 128
  rw [split, List.nodup_append] at nodup
  obtain ⟨-, later, apart⟩ := nodup
  rw [split, List.foldl_append, List.foldl_cons, expireSlots_wait before fun j member => others j (apart j member i (by simp))]
  refine expireSlots_wait after fun j member => ?_
  have other : j ≠ i := fun same => (List.nodup_cons.1 later).1 (same ▸ member)
  rw [expireSlot_other other]
  exact others j other

theorem expireHeld_wait (held : List Held) {s : State} (wait : ∀ h ∈ held, h.timer.overdue = false) : held.foldl expireHeld s = s := by
  induction held with
  | nil => rfl
  | cons h held ih =>
    rw [List.foldl_cons, expireHeld, wait h (by simp)]
    exact ih fun x later => wait x (by simp [later])

theorem expireGaps_wait {s : State} (host : s.hlc.framer.gapOverdue = false) (feed : s.flr.framer.gapOverdue = false) :
    expireGaps s = s := by
  simp only [expireGaps, host, Bool.false_eq_true, if_false, feed]

/-- A held event's and a framer's timers that last leave the slots' expiries alone (R1). -/
theorem expireOverdue_slots {s t : State} (slots : (List.finRange 128).foldl expireSlot (counted s) = t)
    (links : t.eq.held = (counted s).eq.held ∧ t.hlc = (counted s).hlc ∧ t.flr = (counted s).flr)
    (held : ∀ h ∈ s.eq.held, h.timer.lasts = true) (gaps : s.hlc.framer.lasts = true ∧ s.flr.framer.lasts = true) :
    expireOverdue (counted s) = t := by
  obtain ⟨same, hlc, flr⟩ := links
  rw [expireOverdue, slots, expireHeld_wait, expireGaps_wait]
  · rw [hlc, ← countMillisecond_eq]
    exact (Framer.tick_overdue _).trans (by rw [gaps.1]; rfl)
  · rw [flr, ← countMillisecond_eq]
    exact (Framer.tick_overdue _).trans (by rw [gaps.2]; rfl)
  · intro h member
    rw [same] at member
    obtain ⟨x, before, rfl⟩ := List.mem_map.1 member
    show x.timer.counted.overdue = false
    rw [← Timer.tick_eq, Timer.tick_overdue, held x before]
    rfl

/-! ### The whole millisecond -/

/-- The walk changes the evaluation in flight and the index of free values alone (R80). -/
theorem walkOn_only (s : State) : walkOn s = (s.withEv (walkOn s).ev).withPaceIndex (walkOn s).paceIndex := by
  unfold walkOn
  cases s.ev.context <;> rfl

theorem walkZones_context (zs : ZoneStore) (n : Nat) (c : Context) :
    ∃ raw walk, c.walk ≤ walk ∧ walkZones zs n c = { c with raw := raw, walk := walk } := by
  induction n generalizing c with
  | zero => exact ⟨c.raw, c.walk, le_rfl, rfl⟩
  | succ n ih =>
    obtain ⟨raw, walk, on, e⟩ := ih (walkZone zs c)
    refine ⟨raw, walk, le_trans ?_ on, ?_⟩
    · by_cases more : c.walk < 64
      · rw [(walkZone_spec zs c more).1]
        omega
      · rw [walkZone, dif_neg more]
    · rw [walkZones, e, walkZone_job, walkZone_void]

/-- The slots after a millisecond, where no timer of the slot expires (R1, R55, R58). -/
theorem millisecond_slot {s : State} {i : SlotNo} (lasts : (s.slots.get i).lasts = true) :
    (s.slots.get i).tick.Reported ((millisecond s).slots.get i) := by
  have ticked : (countMillisecond s).slots.get i = (s.slots.get i).tick := Table.get_map _ _ i
  have waits : ((countMillisecond s).slots.get i).overdue = false := by
    rw [ticked, Slot.tick_overdue, lasts]
    rfl
  have slots := expireSlots_kept (List.finRange 128) waits
  have held := expireHeld_reported ((List.finRange 128).foldl expireSlot (countMillisecond s)).eq.held
    ((List.finRange 128).foldl expireSlot (countMillisecond s)) i
  rw [slots, ticked] at held
  obtain ⟨-, -, -, -, -, walked, -⟩ := walkOn_same (expireOverdue (countMillisecond s))
  obtain ⟨-, -, -, -, gaps, -⟩ := expireGaps_rest
    (((List.finRange 128).foldl expireSlot (countMillisecond s)).eq.held.foldl expireHeld
      ((List.finRange 128).foldl expireSlot (countMillisecond s)))
  rw [millisecond, walked, expireOverdue, gaps]
  exact held

/-- The held events after a millisecond (R120). -/
theorem millisecond_held {s : State} (sound : QueueSound s.eq) : (millisecond s).eq.held =
    (s.eq.held.filter fun h => h.timer.lasts).map fun h => { h with timer := h.timer.counted } := by
  rw [queueSound_iff] at sound
  rw [(queueLoose_millisecond sound).2]
  show ((s.eq.held.map fun h => { h with timer := h.timer.tick }).filter fun x => !x.timer.overdue) = _
  rw [List.filter_map]
  have lasting : ((fun x : Held => !x.timer.overdue) ∘ fun h : Held => { h with timer := h.timer.tick }) = fun h => h.timer.lasts :=
    funext fun h => by rw [Function.comp, Timer.tick_overdue, Bool.not_not]
  rw [lasting]
  exact List.map_congr_left fun h _ => by rw [Timer.tick_eq]

/-! ### The idle step (log entries 1, 3 and 11) -/

theorem step_idle {s : State} (empty : s.pending = []) : step s = .next (idle s) := by
  rw [step, empty]

section Running

variable {s : State} (empty : s.pending = []) (running : s.resetn = true)

include empty running

theorem step_runOn : step s = .next (runOn s) := by
  rw [step_idle empty, idle, whenRunning_high _ running]

theorem step_grants (none_busy : s.ev.context = none) (waits : (arbiterChoice s).isSome = true) : step s = exec .arbiterGrant s := by
  have grant : exec .arbiterGrant s = .next (arbitrate s) := congrArg Host.Outcome.next (whenRunning_high _ running)
  rw [step_runOn empty running, grant]
  simp [runOn, none_busy, waits]

section Walked

variable {c : Context} (busy : s.ev.context = some c) (walked : 64 ≤ c.walk)

include busy walked

theorem step_completesFix (fix : s.ev.ofQuery = false) : step s = exec .fixCompletion s := by
  have completes : exec .fixCompletion s = .next (completeFix s) := congrArg Host.Outcome.next (whenRunning_high _ running)
  have done : ¬ c.walk < 64 := by omega
  rw [step_runOn empty running, completes]
  cases job : c.job with
  | query q g => simp [Evaluator.ofQuery, busy, job] at fix
  | hostFix i f => simp [runOn, busy, done, job]
  | feedFix i f => simp [runOn, busy, done, job]

theorem step_completesQuery (query : s.ev.ofQuery = true) : step s = exec .queryCompletion s := by
  have completes : exec .queryCompletion s = .next (completeQuery s) := congrArg Host.Outcome.next (whenRunning_high _ running)
  have done : ¬ c.walk < 64 := by omega
  rw [step_runOn empty running, completes]
  cases job : c.job with
  | query q g => simp [runOn, busy, done, job]
  | hostFix i f => simp [Evaluator.ofQuery, busy, job] at query
  | feedFix i f => simp [Evaluator.ofQuery, busy, job] at query

end Walked

theorem step_millisecond (waits : s.ev.context = none ∧ arbiterChoice s = none ∨ ∃ c, s.ev.context = some c ∧ c.walk < 64) :
    step s = .next (millisecond s) := by
  rw [step_runOn empty running]
  rcases waits with ⟨none_busy, no_source⟩ | ⟨c, busy, more⟩
  · simp [runOn, none_busy, no_source]
  · simp [runOn, busy, more]

end Running

/-- After its millisecond a part whose slots alone have expired is where those expiries leave it (R1). -/
theorem millisecond_passes {s t : State} (expired : expireOverdue (counted s) = t) :
    millisecond s = (t.withEv (millisecond s).ev).withPaceIndex (millisecond s).paceIndex := by
  have all : millisecond s = walkOn t := by rw [millisecond, countMillisecond_eq, expired]
  rw [all]
  exact walkOn_only t

/-- Settles O2: the idle step is the arbiter's, the completion's or a millisecond, and each timer of that millisecond by itself. -/
theorem emptyQueueRunsOn : Obligations.EmptyQueueRunsOn := by
  intro s empty
  refine ⟨fun low => ?_, fun running => ⟨step_grants empty running, fun c busy walked => step_completesFix empty running busy walked,
    fun c busy walked => step_completesQuery empty running busy walked, fun waits => ?_⟩⟩
  · rw [step_idle empty, idle, whenRunning_low _ low]
  obtain ⟨params, resetn, zs, time, pending⟩ := millisecond_rest s
  have slot_ticked (i : SlotNo) : (counted s).slots.get i = (s.slots.get i).tick := by
    rw [← countMillisecond_eq]
    exact Table.get_map _ _ i
  have slot_waits {i : SlotNo} (lasts : (s.slots.get i).lasts = true) : ((counted s).slots.get i).overdue = false := by
    rw [slot_ticked, Slot.tick_overdue, lasts]
    rfl
  refine ⟨millisecond s, step_millisecond empty running waits, pending.trans empty, time, resetn.trans running, params, zs, ?_, ?_,
    fun none_busy => ?_, fun c busy => ?_, fun i => ?_, millisecond_held, ?_⟩
  · rw [millisecond_hlc, Framer.afterMillisecond_eq]
  · rw [millisecond_flr, Framer.afterMillisecond_eq]
  · rw [millisecond_ev, none_busy]
  · obtain ⟨raw, walk, on, e⟩ := walkZones_context s.zs (Config.walkPace s.paceIndex) c
    refine ⟨raw, walk, on, ?_⟩
    rw [millisecond_ev, busy, ← e]
  · intro sl tl stays lasts
    rcases millisecond_slot lasts with ⟨retiring, -⟩ | ⟨told, quiet, dirty, after, -⟩
    · exact absurd retiring stays
    · have after : tl = _ := after
      rw [after]
      exact ⟨rfl, Timer.tick_eq _, Timer.tick_eq _⟩
  · intro heldLast gapsLast passes
    refine ⟨fun all held gaps => ?_, fun i expires others held gaps => ?_⟩
    · exact millisecond_passes (expireOverdue_slots (expireSlots_wait _ fun i _ => slot_waits (all i)) ⟨rfl, rfl, rfl⟩ held gaps)
    · have same := expireSlot_same (counted s) i
      have passed : passes (expireSlot (counted s) i) :=
        millisecond_passes (expireOverdue_slots (expireSlots_one i fun j other => slot_waits (others j other))
          ⟨expireSlot_held _ i, same.hlc, same.flr⟩ held gaps)
      have high : (counted s).resetn = true := running
      have due {timer : Timer} (expired : timer.lasts = false) : timer.counted.overdue = true ∧ timer.counted.due = true := by
        cases timer with
        | stopped => cases expired
        | running length elapsed =>
          simp only [Timer.lasts, decide_eq_false_iff_not] at expired
          simp only [Timer.counted, Timer.overdue, Timer.due, decide_eq_true_eq]
          omega
      have phase : ((counted s).slots.get i).phase = (s.slots.get i).phase := by rw [slot_ticked]; rfl
      refine ⟨fun tracked => ⟨_, congrArg Host.Outcome.next (whenRunning_high _ high), ?_⟩,
        fun quiet => ⟨_, congrArg Host.Outcome.next (whenRunning_high _ high), ?_⟩⟩
      · have timer : ((counted s).slots.get i).quietTimer = (s.slots.get i).quietTimer.counted := by
          rw [slot_ticked]
          exact Timer.tick_eq _
        obtain ⟨overdue, is_due⟩ := due (timer := (s.slots.get i).quietTimer) (by simpa [Slot.lasts, tracked] using expires)
        have acts : quietDue ((counted s).slots.get i) = true := by simp [quietDue, phase, tracked, timer, is_due]
        have expiry : expireSlot (counted s) i = becomeQuiet i (counted s) := by simp [expireSlot, phase, tracked, timer, overdue]
        rw [if_pos acts, ← expiry]
        exact passed
      · have timer : ((counted s).slots.get i).retireTimer = (s.slots.get i).retireTimer.counted := by
          rw [slot_ticked]
          exact Timer.tick_eq _
        obtain ⟨overdue, is_due⟩ := due (timer := (s.slots.get i).retireTimer) (by simpa [Slot.lasts, quiet] using expires)
        have acts : retireDue ((counted s).slots.get i) = true := by simp [retireDue, phase, quiet, timer, is_due]
        have expiry : expireSlot (counted s) i = retireObject i .quiet (counted s) := by simp [expireSlot, phase, quiet, timer, overdue]
        rw [if_pos acts, ← expiry]
        exact passed

end Sys2Proof.Machine
end
